-- ==== Sys2Proof/Word.lean ====
section
/-! DEFINITION. The types of words and bytes (spec 00_scope.md R6, R9, R10). -/

namespace Sys2Proof

/-- A byte, 8 bits (R10). -/
abbrev Byte := BitVec 8

/-- A word of the cipher datapath and of the register window, 32 bits (R6, R81). -/
abbrev Word := BitVec 32

/-- The "16x32-bit word matrix" of the cipher (R6, R22): word `4 r + c` is row r, column c. -/
abbrev CipherState := Vector Word 16

end Sys2Proof
end

