-- ==== Sys2Proof/Machine/Bytes.lean ====
section
/-! DEFINITION. Byte order: little-endian assembly and serialization (R10, R63), in one place. -/

namespace Sys2Proof.Machine

/-- `LE32(b0, b1, b2, b3)` (R10): the byte at the lowest index is least significant. -/
def le32 (b0 b1 b2 b3 : Byte) : Word := b3 ++ b2 ++ b1 ++ b0

/-- Byte j of `LE32B(w)` (R10): `w[8j+7 : 8j]`. -/
def wordByte (w : Word) (j : Nat) : Byte := w.extractLsb' (8 * j) 8

/-- `LE32B(w)` (R10). -/
def le32B (w : Word) : List Byte := [wordByte w 0, wordByte w 1, wordByte w 2, wordByte w 3]

/-- `LE32(v[k .. k+3])` (R10, R63 (a)): the word held by four consecutive bytes of a byte array. -/
def wordAt {n : Nat} (v : Vector Byte n) (k : Nat) (h : k + 3 < n := by omega) : Word :=
  le32 v[k] v[k + 1] v[k + 2] v[k + 3]

/-- The byte array with bytes `4i .. 4i+3` replaced by `LE32B(x)` (R63 (d), R85). -/
def setWordAt {n : Nat} (v : Vector Byte n) (i : Nat) (x : Word) : Vector Byte n :=
  Vector.ofFn fun k => if k.val / 4 = i then wordByte x (k.val % 4) else v[k]

/-- `LE32B(w[0]) || ... || LE32B(w[15])` (R120, R124). -/
def serialize16 (w : CipherState) : Vector Byte 64 :=
  Vector.ofFn fun i => wordByte w[i.val / 4] (i.val % 4)

/-- The eight words of a sub-key, serialized little-endian (R140). -/
def serialize8 (w : Vector Word 8) : Vector Byte 32 :=
  Vector.ofFn fun i => wordByte w[i.val / 4] (i.val % 4)

/-- `LEint(B)` (R10): the little-endian natural number of a byte string of any length. -/
def leInt : List Byte → Nat
  | [] => 0
  | b :: bs => b.toNat + 256 * leInt bs

/-- `LEbytes_n(v)` (R10): the n bytes of v, least significant first; `LE64B` is the case n = 8. -/
def leBytes (n v : Nat) : Vector Byte n := Vector.ofFn fun i => BitVec.ofNat 8 (v / 256 ^ i.val)

/-- n zero bytes, `0^n` (R9). -/
def zeroBytes (n : Nat) : Vector Byte n := Vector.replicate n 0

/-- The all-zero cipher state. -/
def zeroWords : CipherState := Vector.replicate 16 0

end Sys2Proof.Machine
end

