-- ==== Sys2Proof/Machine/Constants.lean ====
section
/-! DEFINITION. The constants the spec hardwires (R6, R8, R11, R171, R179). -/

namespace Sys2Proof.Machine

/-- `KEY_SIZE` (R6), the only legal KLEN (R32). -/
def keySize : Byte := 32
/-- `XNONCE_SIZE` (R6), the only legal NLEN (R32). -/
def xnonceSize : Byte := 24
/-- `TAG_SIZE` (R6), the only legal TLEN (R32). -/
def tagSize : Byte := 16
/-- `BLOCK_SIZE` (R6): the Poly1305 block and the unit of pad16, in bytes. -/
def blockSize : Nat := 16
/-- `CHACHA20_BLOCK_SIZE` (R6): bytes of one keystream block. -/
def chachaBlockSize : Nat := 64
/-- `CTR_MAX_DLEN` (R8): the largest data length one command accepts, in bytes. -/
def ctrMaxDlen : Nat := (2 ^ 32 - 1) * 64

/-- Constant word 0, "expa" little-endian (R11). -/
def c0 : Word := 0x61707865
/-- Constant word 1, "nd 3" (R11). -/
def c1 : Word := 0x3320646e
/-- Constant word 2, "2-by" (R11). -/
def c2 : Word := 0x79622d32
/-- Constant word 3, "te k" (R11). -/
def c3 : Word := 0x6b206574

/-- The Poly1305 modulus (R6, R179). -/
def polyP : Nat := 2 ^ 130 - 5
/-- 2^128, the modulus of the final addition and the bound of the additive term (R40, R174, R179). -/
def tagModulus : Nat := 2 ^ 128
/-- The clamp mask of the multiplier r (R171). -/
def clampMask : Nat := 0x0ffffffc0ffffffc0ffffffc0fffffff

/-- The opcode ENCRYPT in CMD[7:0] (R30, R82). -/
def opcEncrypt : Byte := 0x01
/-- The opcode DECRYPT in CMD[7:0] (R30, R82). -/
def opcDecrypt : Byte := 0x02

end Sys2Proof.Machine
end

