-- ==== Sys2Proof/Syntax.lean ====
section
/-! DEFINITION. The instructions: one constructor of `Instr` per row of spec/opcode_table.json, and the moves of
the host in the notation of R89. -/

namespace Sys2Proof

/-- One constructor per row of the opcode table (R91): two host commands (format H), nineteen phases (format U)
and sixteen primitives and function forms (format P). A format H word keeps its ignored bits 31:8 as an operand, so
that no word is lost; a unit operation has no operand (R80: the descriptor carries them); a format P row has no
encoding (R88) and carries the operands its rule names. -/
inductive Instr where
  /-- ENCRYPT, CMD word `reserved || 0x01` (R82, R192). -/
  | encrypt (reserved : BitVec 24)
  /-- DECRYPT, CMD word `reserved || 0x02` (R82, R193). -/
  | decrypt (reserved : BitVec 24)
  /-- IDLE, code 0 (R202). -/
  | idle
  /-- CHECK, code 1 (R191). -/
  | check
  /-- HC_LOAD, code 2 (R141). -/
  | hcLoad
  /-- HC_ROUND, code 3 (R142). -/
  | hcRound
  /-- HC_OUT, code 4 (R143). -/
  | hcOut
  /-- BLK_LOAD, code 5 (R122). -/
  | blkLoad
  /-- BLK_ROUND, code 6 (R123). -/
  | blkRound
  /-- BLK_OUT, code 7 (R124). -/
  | blkOut
  /-- OTK, code 8 (R154). -/
  | otk
  /-- XOR, code 9 (R155). -/
  | xor
  /-- MAC_INIT, code 10 (R176). -/
  | macInit
  /-- MAC_AAD, code 11 (R196). -/
  | macAad
  /-- MAC_DATA, code 12 (R197). -/
  | macData
  /-- MAC_LEN, code 13 (R198). -/
  | macLen
  /-- MAC_FINAL, code 14 (R178). -/
  | macFinal
  /-- TAG_OUT, code 15 (R199). -/
  | tagOut
  /-- TAG_CMP, code 16 (R200). -/
  | tagCmp
  /-- FAIL_ERASE, code 17 (R201). -/
  | failErase
  /-- WIPE, code 18 (R214). -/
  | wipe
  /-- ADD32 of two words (R100). -/
  | add32 (a b : Word)
  /-- XOR32 of two words (R101). -/
  | xor32 (a b : Word)
  /-- ROTL32 of a word by a fixed amount (R102). -/
  | rotl32 (x : Word) (amount : Nat)
  /-- QR of four words (R103). -/
  | qr (a b c d : Word)
  /-- COLROUND of a 16-word state (R104). -/
  | colround (w : CipherState)
  /-- DIAGROUND of a 16-word state (R105). -/
  | diaground (w : CipherState)
  /-- DOUBLEROUND of a 16-word state (R106). -/
  | doubleround (w : CipherState)
  /-- PERM20 of a 16-word state (R106). -/
  | perm20 (w : CipherState)
  /-- ROUNDSTEP: its operands are the registers W and RND (R107). -/
  | roundstep
  /-- ChaCha20Block(key, ctr, nonce) (R120). -/
  | chacha20Block (key : Vector Byte 32) (ctr : Word) (nonce : Vector Byte 12)
  /-- HChaCha20(key, 16-byte nonce part) (R140). -/
  | hchacha20 (key : Vector Byte 32) (pre : Vector Byte 16)
  /-- XChaCha20Xor(key, xnonce, data) (R152). -/
  | xchacha20Xor (key : Vector Byte 32) (xnonce : Vector Byte 24) (data : List Byte)
  /-- XChaCha20PolyKey(key, xnonce) (R153). -/
  | xchacha20PolyKey (key : Vector Byte 32) (xnonce : Vector Byte 24)
  /-- Poly1305Mac(otk, msg) (R175). -/
  | poly1305Mac (otk : Vector Byte 32) (msg : List Byte)
  /-- MacAbsorb16(blk): it acts on the registers ACC and R (R177). -/
  | macAbsorb16 (blk : Vector Byte 16)
  /-- MacInput(aad, ct) (R194). -/
  | macInput (aad ct : List Byte)
deriving DecidableEq, Repr

/-- The two buffer spaces (R60, R61). -/
inductive BufSpace where
  | abuf
  | dbuf
deriving DecidableEq, Repr

/-- The registers of the window by name (R81); `reserved` stands for every reserved offset. -/
inductive HostReg where
  | cmd
  | status
  | sizes
  | alenLo
  | alenHi
  | dlenLo
  | dlenHi
  | key (i : Fin 8)
  | xnonce (i : Fin 6)
  | tag (i : Fin 4)
  | reserved
deriving DecidableEq, Repr

/-- One move from outside the core: the host's lines of R89, and two moves that order the agents (log entry 3). -/
inductive HostMove where
  /-- `wr`: write a 32-bit register, by its byte offset in the window (R81). A write of CMD is a start (R190). -/
  | wr (off : Nat) (v : Word)
  /-- `rd`: read a 32-bit register. -/
  | rd (off : Nat)
  /-- `wrb`: write bytes into a buffer. -/
  | wrb (space : BufSpace) (off : Nat) (bytes : List Byte)
  /-- `rdb`: read n bytes of a buffer. -/
  | rdb (space : BufSpace) (off n : Nat)
  /-- `wait`: read STATUS until DONE = 1. -/
  | wait
  /-- The host does nothing while the core takes one step: with it a script interleaves the two agents freely. -/
  | core
  /-- The reset input (R260, R261). -/
  | reset
deriving DecidableEq, Repr

end Sys2Proof
end

