-- ==== Sys2Proof/Decode.lean ====
section
/-! DEFINITION. The decoder (R82, R83, R86, R87), total and rejecting by name, the register offsets (R81), and the
encoder written from the same tables. -/

namespace Sys2Proof

/-- Why a code is not an instruction, or an offset not a register. -/
inductive DecodeError where
  /-- A CMD word whose OPC is 0x00 or 0x03 to 0xFF (R83). -/
  | illegalOpcode (opc : Byte)
  /-- A PHASE code 19 to 31 (R87). -/
  | reservedPhase (code : BitVec 5)
  /-- A byte with a bit above the five of a PHASE code set: no PHASE value (R86). -/
  | notAPhaseCode (b : Byte)
  /-- A byte string that is neither one PHASE code nor one CMD word (R80: both formats have a fixed length). -/
  | badLength (n : Nat)
  /-- An offset outside the window of 0x80 bytes, or not that of a whole word (R81). -/
  | noSuchRegister (off : Nat)
deriving DecidableEq, Repr

/-- An encoded instruction: a CMD word (format H) or a PHASE code (format U) (R80). -/
inductive Code where
  | cmd (w : Word)
  | phase (c : BitVec 5)
deriving DecidableEq, Repr

/-- `CMD[7:0]`, the opcode field (R82). -/
def cmdOpc (w : Word) : Byte := w.extractLsb' 0 8

/-- `CMD[31:8]`, the ignored bits (R82). -/
def cmdReserved (w : Word) : BitVec 24 := w.extractLsb' 8 24

/-- Format H: "a decoder matches word & 0x000000FF against 0x01 and 0x02" (R82); the rest is illegal (R83). -/
def decodeCmd (w : Word) : Except DecodeError Instr :=
  if cmdOpc w = Machine.opcEncrypt then .ok (.encrypt (cmdReserved w))
  else if cmdOpc w = Machine.opcDecrypt then .ok (.decrypt (cmdReserved w))
  else .error (.illegalOpcode (cmdOpc w))

/-- Format U: the nineteen codes of R86; codes 19 to 31 are reserved (R87). -/
def decodePhase (c : BitVec 5) : Except DecodeError Instr :=
  match c.toNat with
  | 0 => .ok .idle
  | 1 => .ok .check
  | 2 => .ok .hcLoad
  | 3 => .ok .hcRound
  | 4 => .ok .hcOut
  | 5 => .ok .blkLoad
  | 6 => .ok .blkRound
  | 7 => .ok .blkOut
  | 8 => .ok .otk
  | 9 => .ok .xor
  | 10 => .ok .macInit
  | 11 => .ok .macAad
  | 12 => .ok .macData
  | 13 => .ok .macLen
  | 14 => .ok .macFinal
  | 15 => .ok .tagOut
  | 16 => .ok .tagCmp
  | 17 => .ok .failErase
  | 18 => .ok .wipe
  | _ => .error (.reservedPhase c)

/-- The decoder on a code of either format. -/
def decode : Code → Except DecodeError Instr
  | .cmd w => decodeCmd w
  | .phase c => decodePhase c

/-- The bytes of a code: a CMD word little-endian (R63), a PHASE code in the low bits of one byte. -/
def Code.bytes : Code → List Byte
  | .cmd w => Machine.le32B w
  | .phase c => [c.setWidth 8]

/-- The code a byte string holds: four bytes are a CMD word, one byte is a PHASE code. -/
def codeOfBytes : List Byte → Except DecodeError Code
  | [b] => if b.toNat < 32 then .ok (.phase (b.setWidth 5)) else .error (.notAPhaseCode b)
  | [b0, b1, b2, b3] => .ok (.cmd (Machine.le32 b0 b1 b2 b3))
  | bs => .error (.badLength bs.length)

/-- The decoder on any bytes. -/
def decodeBytes (bs : List Byte) : Except DecodeError Instr :=
  match codeOfBytes bs with
  | .ok c => decode c
  | .error e => .error e

/-- The bytes, lowest first, of a table word of `nbits` bits (R63: little-endian). -/
def tableWordBytes (nbits w : Nat) : List Byte :=
  (Machine.leBytes ((nbits + 7) / 8) w).toList

/-- The instruction the decoder reads from a word of the opcode table, numbered as the table numbers its bits. The
format P rows have no bits (R88), so no word decodes to them. -/
def decodeTableWord (nbits w : Nat) : Option Instr :=
  match decodeBytes (tableWordBytes nbits w) with
  | .ok i => some i
  | .error _ => none

/-- The encoder, from the tables of R82 and R86; a format P row has no encoding (R88). -/
def encode : Instr → Option Code
  | .encrypt r => some (.cmd (r ++ (0x01 : BitVec 8)))
  | .decrypt r => some (.cmd (r ++ (0x02 : BitVec 8)))
  | .idle => some (.phase 0)
  | .check => some (.phase 1)
  | .hcLoad => some (.phase 2)
  | .hcRound => some (.phase 3)
  | .hcOut => some (.phase 4)
  | .blkLoad => some (.phase 5)
  | .blkRound => some (.phase 6)
  | .blkOut => some (.phase 7)
  | .otk => some (.phase 8)
  | .xor => some (.phase 9)
  | .macInit => some (.phase 10)
  | .macAad => some (.phase 11)
  | .macData => some (.phase 12)
  | .macLen => some (.phase 13)
  | .macFinal => some (.phase 14)
  | .tagOut => some (.phase 15)
  | .tagCmp => some (.phase 16)
  | .failErase => some (.phase 17)
  | .wipe => some (.phase 18)
  | .add32 _ _ | .xor32 _ _ | .rotl32 _ _ | .qr _ _ _ _ | .colround _ | .diaground _ | .doubleround _ | .perm20 _
  | .roundstep | .chacha20Block _ _ _ | .hchacha20 _ _ | .xchacha20Xor _ _ _ | .xchacha20PolyKey _ _
  | .poly1305Mac _ _ | .macAbsorb16 _ | .macInput _ _ => none

/-- The register at a byte offset of the window (R81): whole words only, 0x80 bytes. -/
def decodeRegOffset (off : Nat) : Except DecodeError HostReg :=
  if off % 4 = 0 then
    match off / 4 with
    | 0 => .ok .cmd
    | 1 => .ok .status
    | 2 => .ok .sizes
    | 3 => .ok .reserved
    | 4 => .ok .alenLo
    | 5 => .ok .alenHi
    | 6 => .ok .dlenLo
    | 7 => .ok .dlenHi
    | 8 => .ok (.key 0)
    | 9 => .ok (.key 1)
    | 10 => .ok (.key 2)
    | 11 => .ok (.key 3)
    | 12 => .ok (.key 4)
    | 13 => .ok (.key 5)
    | 14 => .ok (.key 6)
    | 15 => .ok (.key 7)
    | 16 => .ok (.xnonce 0)
    | 17 => .ok (.xnonce 1)
    | 18 => .ok (.xnonce 2)
    | 19 => .ok (.xnonce 3)
    | 20 => .ok (.xnonce 4)
    | 21 => .ok (.xnonce 5)
    | 22 | 23 => .ok .reserved
    | 24 => .ok (.tag 0)
    | 25 => .ok (.tag 1)
    | 26 => .ok (.tag 2)
    | 27 => .ok (.tag 3)
    | 28 | 29 | 30 | 31 => .ok .reserved
    | _ => .error (.noSuchRegister off)
  else .error (.noSuchRegister off)

/-- The offset of a named register (R81); the lowest reserved offset stands for `reserved`. -/
def HostReg.offset : HostReg → Nat
  | .cmd => 0x00
  | .status => 0x04
  | .sizes => 0x08
  | .reserved => 0x0C
  | .alenLo => 0x10
  | .alenHi => 0x14
  | .dlenLo => 0x18
  | .dlenHi => 0x1C
  | .key i => 0x20 + 4 * i.val
  | .xnonce i => 0x40 + 4 * i.val
  | .tag i => 0x60 + 4 * i.val

end Sys2Proof
end

