-- ==== Sys2Proof/Machine/Primitives.lean ====
section
/-! DEFINITION. The word primitives as functions (40_word_primitives.md R100 to R109). -/

namespace Sys2Proof.Machine

/-- ADD32 (R100): addition modulo 2^32. -/
def add32 (a b : Word) : Word := a + b

/-- XOR32 (R101). -/
def xor32 (a b : Word) : Word := a ^^^ b

/-- ROTL32 (R102): rotate left; "a model that defines ROTL32 for all n should take n mod 32". -/
def rotl32 (x : Word) (n : Nat) : Word := x.rotateLeft n

/-- QR (R103): the twelve operations in order, each on the values left by the ones before it. -/
def quarterRound (a b c d : Word) : Word × Word × Word × Word :=
  let a := add32 a b
  let d := rotl32 (xor32 d a) 16
  let c := add32 c d
  let b := rotl32 (xor32 b c) 12
  let a := add32 a b
  let d := rotl32 (xor32 d a) 8
  let c := add32 c d
  let b := rotl32 (xor32 b c) 7
  (a, b, c, d)

/-- A lane of a round: the indices of the words in the positions a, b, c, d (R104, R105, R109). -/
abbrev Lane := Fin 16 × Fin 16 × Fin 16 × Fin 16

/-- The four columns (R104). -/
def columnLanes : List Lane := [(0, 4, 8, 12), (1, 5, 9, 13), (2, 6, 10, 14), (3, 7, 11, 15)]

/-- The four diagonals (R105). -/
def diagonalLanes : List Lane := [(0, 5, 10, 15), (1, 6, 11, 12), (2, 7, 8, 13), (3, 4, 9, 14)]

/-- `(w[i], w[j], w[k], w[l]) <- QR(w[i], w[j], w[k], w[l])` (R104). -/
def applyLane (w : CipherState) (g : Lane) : CipherState :=
  let (i, j, k, l) := g
  let (a, b, c, d) := quarterRound w[i] w[j] w[k] w[l]
  (((w.set i a).set j b).set k c).set l d

/-- A round over a list of lanes, in the order of the list (R109: the order does not matter). -/
def roundOn (lanes : List Lane) (w : CipherState) : CipherState := lanes.foldl applyLane w

/-- COLROUND (R104). -/
def columnRound (w : CipherState) : CipherState := roundOn columnLanes w

/-- DIAGROUND (R105). -/
def diagonalRound (w : CipherState) : CipherState := roundOn diagonalLanes w

/-- DOUBLEROUND (R106): a column round, then a diagonal round. -/
def doubleRound (w : CipherState) : CipherState := diagonalRound (columnRound w)

/-- PERM20 (R106): ten double rounds, twenty rounds. -/
def perm20 (w : CipherState) : CipherState := doubleRound^[10] w

/-- The round that ROUNDSTEP performs at a value of RND (R107, R24): even a column round, odd a diagonal round. -/
def roundAt (rnd : BitVec 5) (w : CipherState) : CipherState :=
  if rnd.toNat % 2 = 0 then columnRound w else diagonalRound w

end Sys2Proof.Machine
end

