-- ==== Sys2Proof/Machine/Cipher.lean ====
section
/-! DEFINITION. The cipher's function forms: the ChaCha20 block (R120, R121), HChaCha20 (R140) and XChaCha20
(R150 to R153). -/

namespace Sys2Proof.Machine

/-- Words 0 to 11 are constants and key in both layouts; the last four are given (R121, R140, C1). -/
def keyedState (key : Vector Byte 32) (w12 w13 w14 w15 : Word) : CipherState :=
  #v[c0, c1, c2, c3,
     wordAt key 0, wordAt key 4, wordAt key 8, wordAt key 12,
     wordAt key 16, wordAt key 20, wordAt key 24, wordAt key 28,
     w12, w13, w14, w15]

/-- InitState(key, ctr, nonce) (R121): word 12 the counter, words 13 to 15 the nonce. -/
def initState (key : Vector Byte 32) (ctr : Word) (nonce : Vector Byte 12) : CipherState :=
  keyedState key ctr (wordAt nonce 0) (wordAt nonce 4) (wordAt nonce 8)

/-- The loaded state of HChaCha20 (R140, R141, C1): words 12 to 15 the 128-bit nonce part, ascending. -/
def hInitState (key : Vector Byte 32) (pre : Vector Byte 16) : CipherState :=
  keyedState key (wordAt pre 0) (wordAt pre 4) (wordAt pre 8) (wordAt pre 12)

/-- The add-back of the original state, word for word (R120, R124). -/
def addBack (w s0 : CipherState) : CipherState := Vector.ofFn fun i => add32 w[i] s0[i]

/-- ChaCha20Block(key, ctr, nonce) (R120). -/
def chacha20Block (key : Vector Byte 32) (ctr : Word) (nonce : Vector Byte 12) : Vector Byte 64 :=
  let s0 := initState key ctr nonce
  serialize16 (addBack (perm20 s0) s0)

/-- The sub-key of a permuted state: words 0, 1, 2, 3, 12, 13, 14, 15, serialized, no add-back (R140). -/
def subkeyOf (w : CipherState) : Vector Byte 32 :=
  serialize8 #v[w[0], w[1], w[2], w[3], w[12], w[13], w[14], w[15]]

/-- HChaCha20 (R140). -/
def hchacha20 (key : Vector Byte 32) (pre : Vector Byte 16) : Vector Byte 32 :=
  subkeyOf (perm20 (hInitState key pre))

/-- The first sixteen bytes of the extended nonce (R150). -/
def noncePrefix (xn : Vector Byte 24) : Vector Byte 16 := Vector.ofFn fun i => xn[i.val]

/-- The ChaCha20 nonce: four zero bytes, then bytes 16 to 23 of the extended nonce (R151). -/
def chachaNonce (xn : Vector Byte 24) : Vector Byte 12 :=
  #v[0, 0, 0, 0, xn[16], xn[17], xn[18], xn[19], xn[20], xn[21], xn[22], xn[23]]

/-- The keystream of blocks with counters 1, 2, ..., n (R126, R152). -/
def keystream (sk : Vector Byte 32) (cn : Vector Byte 12) (n : Nat) : List Byte :=
  (List.range n).flatMap fun j => (chacha20Block sk (BitVec.ofNat 32 (1 + j)) cn).toList

/-- `[ d[t] xor ks[t] ]` over the shorter of the two (R152, R155). -/
def xorBytes (d ks : List Byte) : List Byte := List.zipWith (· ^^^ ·) d ks

/-- XChaCha20Xor(key, xnonce, data) (R152): chunk j of 64 bytes, the last possibly shorter, with block 1 + j. -/
def xchacha20Xor (key : Vector Byte 32) (xn : Vector Byte 24) (data : List Byte) : List Byte :=
  xorBytes data (keystream (hchacha20 key (noncePrefix xn)) (chachaNonce xn)
    ((data.length + (chachaBlockSize - 1)) / chachaBlockSize))

/-- The first half of a 64-byte block (R153, R154). -/
def firstHalf (ks : Vector Byte 64) : Vector Byte 32 := Vector.ofFn fun i => ks[i.val]

/-- XChaCha20PolyKey(key, xnonce) (R153): the first 32 bytes of the block with counter 0. -/
def xchacha20PolyKey (key : Vector Byte 32) (xn : Vector Byte 24) : Vector Byte 32 :=
  firstHalf (chacha20Block (hchacha20 key (noncePrefix xn)) 0 (chachaNonce xn))

end Sys2Proof.Machine
end

