-- ==== Sys2Proof/Machine/Mac.lean ====
section
/-! DEFINITION. Poly1305 as a function (44_poly1305.md R170 to R175) and the framing of the AEAD (R194). -/

namespace Sys2Proof.Machine

/-- The clamped multiplier of a one-time key (R170, R171): `LEint(otk[0..15]) AND CLAMP`. -/
def macR (otk : Vector Byte 32) : Nat := leInt (otk.toList.take 16) &&& clampMask

/-- The additive term of a one-time key (R170): `LEint(otk[16..31])`. -/
def macS (otk : Vector Byte 32) : Nat := leInt (otk.toList.drop 16)

/-- BlockVal(b) (R172): the block as a little-endian integer with a 0x01 byte directly after its last byte. -/
def blockVal (b : List Byte) : Nat := leInt b + 2 ^ (8 * b.length)

/-- Absorb(acc, r, v) (R173): exact sum and product, canonical residue. -/
def absorb (acc r v : Nat) : Nat := ((acc + v) * r) % polyP

/-- Tag(acc, s) (R174). -/
def macTag (acc s : Nat) : Vector Byte 16 := leBytes 16 ((acc + s) % tagModulus)

/-- Block j of a message (R172): bytes `16 j` to `min(16 j + 15, L - 1)`. -/
def messageBlock (msg : List Byte) (j : Nat) : List Byte := (msg.drop (blockSize * j)).take blockSize

/-- The number of 16-byte blocks of a segment of n bytes, the last possibly shorter (R172, R203). -/
def blockCount (n : Nat) : Nat := (n + (blockSize - 1)) / blockSize

/-- The accumulator after a message (R175). -/
def macAcc (r : Nat) (msg : List Byte) : Nat :=
  (List.range (blockCount msg.length)).foldl (fun acc j => absorb acc r (blockVal (messageBlock msg j))) 0

/-- Poly1305Mac(otk, msg) (R175). -/
def poly1305Mac (otk : Vector Byte 32) (msg : List Byte) : Vector Byte 16 :=
  macTag (macAcc (macR otk) msg) (macS otk)

/-- pad16(x) (R194). -/
def pad16 (x : List Byte) : List Byte := x ++ List.replicate ((16 - x.length % 16) % 16) 0

/-- The length-framing block (R194, R198). -/
def lengthBlock (alen dlen : Nat) : List Byte := (leBytes 8 alen).toList ++ (leBytes 8 dlen).toList

/-- MacInput(aad, ct) (R194). -/
def macInput (aad ct : List Byte) : List Byte := pad16 aad ++ pad16 ct ++ lengthBlock aad.length ct.length

end Sys2Proof.Machine
end

