-- ==== Sys2Proof/Config.lean ====
section
/-! DEFINITION. What an implementation fixes (R7: capacities and platform addresses) and the free values of
the model (R45, R261, U4, U5: bytes of a buffer that the spec calls arbitrary). -/

namespace Sys2Proof

/-- The parameters R7 leaves to the implementation. R7 says a model takes them as arguments: `State` carries one
`Params` that no step writes, so a statement about every state holds for every value of them (log entry 2). -/
structure Params where
  /-- `ABUF_CAP`, bytes of associated data the core can hold, at most 2^64 - 1. -/
  abufCap : Nat
  /-- `DBUF_CAP`, bytes of data the core can hold, at most 2^64 - 1. -/
  dbufCap : Nat
  /-- `REG_BASE`, platform address of the register window: read by no rule (R7, R73). -/
  regBase : Nat
  /-- `ABUF_BASE`, platform address of the ABUF window: read by no rule (R7, R73). -/
  abufBase : Nat
  /-- `DBUF_BASE`, platform address of the DBUF window: read by no rule (R7, R73). -/
  dbufBase : Nat
deriving DecidableEq, Repr

/-- The range R7 gives the two capacities: `0 <= cap <= 2^64 - 1`. -/
abbrev Params.inRange (p : Params) : Prop := p.abufCap < 2 ^ 64 ∧ p.dbufCap < 2 ^ 64

/-- DESIGN CHOICE (log entry 2). The parameters `State.reset` carries: the programs of 95_test_vectors.md use 1024
for both capacities (U13); the three windows are disjoint. -/
def Config.reference : Params :=
  { abufCap := 1024, dbufCap := 1024, regBase := 0, abufBase := 0x1000, dbufBase := 0x2000 }

/-- A FREE VALUE (R45, R261, U4, U5): the byte at an offset of a buffer after a reset event. The first argument
is the draw (a counter in `State` that each reset event advances), the second the offset. It has no body:
nothing can be proved of its value (log entry 4). -/
opaque Config.freeByte : Nat → Nat → Byte

end Sys2Proof
end

