-- ==== Sys2Proof/Machine/Memory.lean ====
section
/-! DEFINITION. A buffer space as plain data (R60, R61): a list of cells in one canonical form, offsets strictly
rising and no cell that holds what an unlisted offset reads as. -/

namespace Sys2Proof.Machine

/-- A buffer: (offset, byte) cells. -/
abbrev Memory := List Host.Cell

/-- DESIGN CHOICE (log entry 5): what an offset that nothing has written reads as. R45 leaves the contents of the
buffers after power-on open. -/
def Memory.unwritten : Byte := 0

/-- The canonical form: offsets strictly rising, no cell equal to what an unlisted offset reads as. -/
abbrev Memory.wf (m : Memory) : Prop :=
  m.Pairwise (fun a b => a.1 < b.1) ∧ ∀ c ∈ m, c.2 ≠ Memory.unwritten

/-- Every cell lies inside a buffer of `cap` bytes (R60, R61: offsets 0 to cap - 1). -/
abbrev Memory.within (m : Memory) (cap : Nat) : Prop := ∀ c ∈ m, c.1 < cap

/-- The byte at an offset. -/
def Memory.read : Memory → Nat → Byte
  | [], _ => Memory.unwritten
  | (k, v) :: m, a => if k = a then v else Memory.read m a

/-- Set the byte at an offset, keeping the canonical form. -/
def Memory.write : Memory → Nat → Byte → Memory
  | [], a, b => if b = Memory.unwritten then [] else [(a, b)]
  | (k, v) :: m, a, b =>
    if a < k then (if b = Memory.unwritten then (k, v) :: m else (a, b) :: (k, v) :: m)
    else if a = k then (if b = Memory.unwritten then m else (k, b) :: m)
    else (k, v) :: Memory.write m a b

/-- The n bytes at offsets `off .. off + n - 1` (R66). -/
def Memory.readBytes (m : Memory) (off n : Nat) : List Byte :=
  (List.range n).map fun t => m.read (off + t)

/-- Set the bytes at offsets `off, off + 1, ...` and no other (R67). -/
def Memory.writeBytes : Memory → Nat → List Byte → Memory
  | m, _, [] => m
  | m, off, b :: bs => Memory.writeBytes (m.write off b) (off + 1) bs

/-- A buffer of `cap` bytes whose bytes are given by a rule. -/
def Memory.fill (cap : Nat) (f : Nat → Byte) : Memory :=
  Memory.writeBytes [] 0 ((List.range cap).map f)

end Sys2Proof.Machine
end

