-- ==== Sys2Proof/Machine/State.lean ====
section
/-! DEFINITION. The state of one core (R21), held as plain data, the reasons a step can stop, and the state right
after reset (R45, R260). -/

namespace Sys2Proof.Machine

/-- STATUS (R28) by its fields; bits 31:8 are reserved and read as zero, so they are no data. -/
structure Status where
  /-- Bit 0, BUSY. -/
  busy : Bool
  /-- Bit 1, DONE. -/
  done : Bool
  /-- Bits 3:2, ERR. -/
  err : BitVec 2
  /-- Bits 7:4, ERRINFO. -/
  errInfo : BitVec 4
deriving DecidableEq, Repr

/-- SIZES (R32) by its fields; bits 31:24 are ignored on write and read as zero, so they are no data. -/
structure Sizes where
  /-- Bits 7:0. -/
  klen : Byte
  /-- Bits 15:8. -/
  nlen : Byte
  /-- Bits 23:16. -/
  tlen : Byte
deriving DecidableEq, Repr

/-- The scratch registers (R31) but for PHASE: with KEY they are the sensitive set, erased by WIPE. -/
structure Scratch where
  /-- W[0..15], the working cipher state (R22). -/
  w : CipherState
  /-- S0[0..15], the pre-round state kept for the add-back (R23). -/
  s0 : CipherState
  /-- RND, the 5-bit round counter (R24). -/
  rnd : BitVec 5
  /-- CTR, the 32-bit block counter (R25). -/
  ctr : Word
  /-- POS, the 64-bit count of data bytes the keystream XOR has processed (R27). -/
  pos : BitVec 64
  /-- MPOS, the 64-bit offset in the segment the MAC absorbs (R27). -/
  mpos : BitVec 64
  /-- SUBKEY[0..31] (R37). -/
  subkey : Vector Byte 32
  /-- CNONCE[0..11] (R37). -/
  cnonce : Vector Byte 12
  /-- KS[0..63], the keystream block (R38). -/
  ks : Vector Byte 64
  /-- OTK[0..31], the one-time Poly1305 key (R39). -/
  otk : Vector Byte 32
  /-- R, the clamped multiplier: a natural number of 128 bits (R40, R180). -/
  r : Nat
  /-- S, the additive term: a natural number of 128 bits (R40, R180). -/
  s : Nat
  /-- ACC, the accumulator: a natural number below 2^130 - 5 (R40, R180). -/
  acc : Nat
  /-- LENBLK[0..15], the length-framing block (R41). -/
  lenblk : Vector Byte 16
  /-- CTAG[0..15], the computed tag (R41). -/
  ctag : Vector Byte 16
  /-- DIFF, the 8-bit running OR of the tag comparison (R29). -/
  diff : Byte
deriving DecidableEq, Repr

/-- Every scratch register zero: what reset (R45) and WIPE (R214) leave. -/
def Scratch.zero : Scratch :=
  { w := Vector.replicate 16 0, s0 := Vector.replicate 16 0, rnd := 0, ctr := 0, pos := 0, mpos := 0,
    subkey := Vector.replicate 32 0, cnonce := Vector.replicate 12 0, ks := Vector.replicate 64 0,
    otk := Vector.replicate 32 0, r := 0, s := 0, acc := 0, lenblk := Vector.replicate 16 0,
    ctag := Vector.replicate 16 0, diff := 0 }

/-- What the host's last read move returned (log entry 3): the model's own field. -/
inductive HostData where
  | none
  | word (w : Word)
  | bytes (bs : List Byte)
deriving DecidableEq, Repr

/-- The output of the last format P row executed (log entry 6): the model's own field, read by no rule. -/
inductive FnOut where
  | none
  | word (w : Word)
  | quad (a b c d : Word)
  | words (w : CipherState)
  | bytes (bs : List Byte)
deriving DecidableEq, Repr

/-- The state of one core, R21's tuple, then the model's own fields. -/
structure State where
  /-- CMD[7:0], OPC; bits 31:8 read as zero and are no data (R30). -/
  opc : Byte
  /-- STATUS (R28). -/
  status : Status
  /-- SIZES (R32). -/
  sizes : Sizes
  /-- ALEN, 64 bits (R33). -/
  alen : BitVec 64
  /-- DLEN, 64 bits (R33). -/
  dlen : BitVec 64
  /-- KEY[0..31] (R34). -/
  key : Vector Byte 32
  /-- XNONCE[0..23] (R35). -/
  xnonce : Vector Byte 24
  /-- TAG[0..15] (R36). -/
  tag : Vector Byte 16
  /-- PHASE, the 5-bit program counter (R26). -/
  phase : BitVec 5
  /-- The scratch registers but for PHASE (R31). -/
  scr : Scratch
  /-- ABUF (R42, R60). -/
  abuf : Memory
  /-- DBUF (R42, R61). -/
  dbuf : Memory
  /-- The parameters of R7 (log entry 2): no step writes them. -/
  params : Params
  /-- The moves still to come from outside the core, first one first (R20, R89; log entry 3): the model's own. -/
  script : List HostMove
  /-- What the host's last read returned (log entry 3): the model's own. -/
  hostData : HostData
  /-- The output of the last format P row (log entry 6): the model's own. -/
  fnOut : FnOut
  /-- How many reset events have drawn free bytes (log entry 4): the model's own. -/
  draws : Nat
deriving DecidableEq, Repr

/-- What stops the machine. -/
inductive Fault where
  /-- Raised by fetch when PHASE holds a code 19 to 31, whatever BUSY and whoever acts but for the reset input: the
  spec's "no step (stuck)" (R87, U11; log entry 11). Safe: no run reaches such a state, and a claim about one is only
  harder to prove. -/
  | reservedPhase
  /-- Raised by an access to an offset at or above the capacity of its buffer, which does not exist (R60, R61): a
  `wrb` or `rdb` move, or a core access whose precondition (R66) does not hold. Safe: the machine stops. -/
  | outsideBuffer
deriving DecidableEq, Repr

/-- What the model refuses. -/
inductive Refusal where
  /-- An instruction without a meaning; no arm of `exec` answers with it. Safe. -/
  | notModelled (mnemonic : String)
  /-- Raised by a `wrb` or `rdb` move while BUSY = 1: "in the model the host has no such move" (R270, U1 `refuse`).
  Safe for claims about the core; a host that breaks the rule is outside the model. -/
  | bufferAccessWhileBusy
  /-- Raised by a `wr` or `rd` move at an offset that is no whole word of the window of 0x80 bytes (R81). Safe. -/
  | noSuchRegister
deriving DecidableEq, Repr

/-- The outcome of a step or of a meaning. -/
abbrev Out := Host.Outcome State Fault Refusal

/-- The state right after reset (R45, R260): every register zero, PHASE = IDLE, STATUS = 0. The buffers list
nothing (log entry 5); the parameters are log entry 2's; the model's own fields are empty (log entries 3, 4, 6). -/
def State.reset : State :=
  { opc := 0, status := { busy := false, done := false, err := 0, errInfo := 0 },
    sizes := { klen := 0, nlen := 0, tlen := 0 }, alen := 0, dlen := 0, key := Vector.replicate 32 0,
    xnonce := Vector.replicate 24 0, tag := Vector.replicate 16 0, phase := 0, scr := Scratch.zero,
    abuf := [], dbuf := [], params := Config.reference, script := [], hostData := .none, fnOut := .none,
    draws := 0 }

end Sys2Proof.Machine
end

