-- ==== Sys2Proof/Machine/Operands.lean ====
section
/-! DEFINITION. The operand forms: the fields of the descriptor (R80, R84), the running offsets of the buffers
(R156, R64) and the 16-byte block a MAC phase absorbs (R196 to R198). -/

namespace Sys2Proof.Machine

/-- `CMD.OPC = ENCRYPT`: ENC of R195. -/
abbrev State.isEncrypt (s : State) : Prop := s.opc = opcEncrypt

/-- The contents of a buffer space (R60, R61). -/
def State.buf (s : State) : BufSpace → Memory
  | .abuf => s.abuf
  | .dbuf => s.dbuf

/-- The capacity of a buffer space (R60, R61). -/
def State.cap (s : State) : BufSpace → Nat
  | .abuf => s.params.abufCap
  | .dbuf => s.params.dbufCap

/-- Bytes left of a segment from a running offset, at most `unit` (R155, R196, R197): `min(unit, len - off)`. -/
def chunkLen (unit len off : Nat) : Nat := min unit (len - off)

/-- Bytes of the chunk the XOR step processes (R155): `min(64, DLEN - POS)`. -/
def xorLen (s : State) : Nat := chunkLen chachaBlockSize s.dlen.toNat s.scr.pos.toNat

/-- Bytes of the AAD block the MAC_AAD step absorbs (R196): `min(16, ALEN - MPOS)`. -/
def aadLen (s : State) : Nat := chunkLen blockSize s.alen.toNat s.scr.mpos.toNat

/-- Bytes of the data block the MAC_DATA step absorbs (R197): `min(16, DLEN - MPOS)`. -/
def dataLen (s : State) : Nat := chunkLen blockSize s.dlen.toNat s.scr.mpos.toNat

/-- `B || 0^(16 - n)` (R196, R197): a block of at most sixteen bytes, zero-padded. -/
def padBlock (b : List Byte) : Vector Byte 16 := Vector.ofFn fun i => b.getD i.val 0

/-- The length-framing block of the descriptor, `LE64B(ALEN) || LE64B(DLEN)` (R198). -/
def lenBlock (s : State) : Vector Byte 16 :=
  let a := leBytes 8 s.alen.toNat
  let d := leBytes 8 s.dlen.toNat
  #v[a[0], a[1], a[2], a[3], a[4], a[5], a[6], a[7], d[0], d[1], d[2], d[3], d[4], d[5], d[6], d[7]]

end Sys2Proof.Machine
end

