-- ==== Sys2Proof/Machine/Flags.lean ====
section
/-! DEFINITION. The condition the core computes (DIFF, R29, R200), the words STATUS and SIZES read as (R28, R32),
and the contract tests that set ERR and ERRINFO (R191, R234). -/

namespace Sys2Proof.Machine

/-- DIFF after TAG_CMP (R29, R200): the running OR of the sixteen XORed byte pairs, all of them, always. -/
def tagDiff (ctag tag : Vector Byte 16) : Byte :=
  (List.zipWith (· ^^^ ·) ctag.toList tag.toList).foldl (· ||| ·) 0

/-- STATUS as the host reads it (R28). -/
def Status.toWord (st : Status) : Word :=
  (0 : BitVec 24) ++ st.errInfo ++ st.err ++ BitVec.ofBool st.done ++ BitVec.ofBool st.busy

/-- SIZES as the host reads it (R32, R84). -/
def Sizes.toWord (z : Sizes) : Word := (0 : BitVec 8) ++ z.tlen ++ z.nlen ++ z.klen

/-- SIZES from a word written by the host (R32): bits 31:24 are ignored. -/
def Sizes.ofWord (v : Word) : Sizes :=
  { klen := v.extractLsb' 0 8, nlen := v.extractLsb' 8 8, tlen := v.extractLsb' 16 8 }

/-- ERR = AuthenticationFailed (R231). -/
def errAuthentication : BitVec 2 := 1

/-- ERR = ContractViolation (R231). -/
def errContract : BitVec 2 := 2

/-- The number of the first contract test that fails, in the order of R191; `none` when all pass. -/
def contractFailure (s : State) : Option (BitVec 4) :=
  if s.opc ≠ opcEncrypt ∧ s.opc ≠ opcDecrypt then some 1
  else if s.sizes.klen ≠ keySize then some 2
  else if s.sizes.nlen ≠ xnonceSize then some 3
  else if s.sizes.tlen ≠ tagSize then some 4
  else if s.params.abufCap < s.alen.toNat then some 5
  else if s.params.dbufCap < s.dlen.toNat ∨ ctrMaxDlen < s.dlen.toNat then some 6
  else none

end Sys2Proof.Machine
end

