-- ==== Sys2Proof/Machine/PhaseCodes.lean ====
section
/-! DEFINITION. The codes of the PHASE register by name (R86). -/

namespace Sys2Proof.Machine.Phase

def idle : BitVec 5 := 0
def check : BitVec 5 := 1
def hcLoad : BitVec 5 := 2
def hcRound : BitVec 5 := 3
def hcOut : BitVec 5 := 4
def blkLoad : BitVec 5 := 5
def blkRound : BitVec 5 := 6
def blkOut : BitVec 5 := 7
def otk : BitVec 5 := 8
def xor : BitVec 5 := 9
def macInit : BitVec 5 := 10
def macAad : BitVec 5 := 11
def macData : BitVec 5 := 12
def macLen : BitVec 5 := 13
def macFinal : BitVec 5 := 14
def tagOut : BitVec 5 := 15
def tagCmp : BitVec 5 := 16
def failErase : BitVec 5 := 17
def wipe : BitVec 5 := 18

end Sys2Proof.Machine.Phase
end

