-- ==== Sys2Proof/Machine/Ops.lean ====
section
/-! DEFINITION. The shared operations over buffers and registers, starting a command (R190), raising an error (R233,
R234, R238) and returning to idle (R214, R239), and the reset event (R260, R261). -/

namespace Sys2Proof.Machine

/-- `PHASE <- p` (R10): the core's control transfer. -/
def State.setPhase (s : State) (p : BitVec 5) : State := { s with phase := p }

/-- Replace the contents of a buffer space. -/
def State.setBuf (s : State) (sp : BufSpace) (m : Memory) : State :=
  match sp with
  | .abuf => { s with abuf := m }
  | .dbuf => { s with dbuf := m }

/-- MemRead(space, off, n) (R66). Its precondition is that the bytes exist; where they do not, a fault. -/
def memRead (sp : BufSpace) (off n : Nat) (s : State) : Except Fault (List Byte) :=
  if off + n ≤ s.cap sp then .ok ((s.buf sp).readBytes off n) else .error .outsideBuffer

/-- MemWrite(space, off, n, v) (R67), with the same precondition. The core writes DBUF only; the host both. -/
def memWrite (sp : BufSpace) (off : Nat) (v : List Byte) (s : State) : Except Fault State :=
  if off + v.length ≤ s.cap sp then .ok (s.setBuf sp ((s.buf sp).writeBytes off v)) else .error .outsideBuffer

/-- ROUNDSTEP on the registers W and RND (R107). -/
def Scratch.roundStep (c : Scratch) : Scratch := { c with w := roundAt c.rnd c.w, rnd := c.rnd + 1 }

/-- The body HC_ROUND and BLK_ROUND share (R142, R123): ROUNDSTEP, and `after` once RND has reached 20,
which it then holds until the OUT step (vector B1; against R24's last sentence, log entry 9). -/
def roundPhase (after : BitVec 5) (s : State) : State :=
  if s.scr.rnd + 1 = 20 then { s with scr := s.scr.roundStep, phase := after }
  else { s with scr := s.scr.roundStep }

/-- ACC after MacAbsorb16(blk) (R177): Absorb with a full block's value, `BlockVal(blk) = LEint(blk) + 2^128`. -/
def Scratch.absorbed (c : Scratch) (blk : Vector Byte 16) : Nat := absorb c.acc c.r (blockVal blk.toList)

/-- START (R190): the write of the word v to CMD begins a command; while BUSY = 1 it is ignored. -/
def startCommand (v : Word) (s : State) : State :=
  if s.status.busy then s
  else { s with opc := cmdOpc v, status := { busy := true, done := false, err := 0, errInfo := 0 },
                phase := Phase.check }

/-- Taking an error (R230, R238): ERR and ERRINFO are recorded and control goes to a fixed phase; nothing else is
saved or changed. -/
def raiseError (err : BitVec 2) (info : BitVec 4) (next : BitVec 5) (s : State) : State :=
  { s with status := { s.status with err := err, errInfo := info }, phase := next }

/-- raise ContractViolation(i) (R191, R234). -/
def raiseContractViolation (i : BitVec 4) (s : State) : State := raiseError errContract i Phase.wipe s

/-- raise AuthenticationFailed (R200, R233): ERRINFO is not written. -/
def raiseAuthenticationFailed (s : State) : State :=
  raiseError errAuthentication s.status.errInfo Phase.failErase s

/-- The return to IDLE (R214, R239): BUSY <- 0, DONE <- 1, ERR and ERRINFO kept. -/
def finishCommand (s : State) : State :=
  { s with status := { s.status with busy := false, done := true }, phase := Phase.idle }

/-- Erasing the sensitive set (R31, R214): scratch without PHASE, and KEY. -/
def eraseSensitive (s : State) : State := { s with scr := Scratch.zero, key := zeroBytes 32 }

/-- The reset event (R260, R261): every register as after reset, at once; the bytes of both buffers are arbitrary
(R45, U4, U5): free values (log entry 4). The parameters and what stands outside the core stay. -/
def resetEvent (s : State) : State :=
  { State.reset with
    params := s.params, script := s.script, hostData := s.hostData, fnOut := s.fnOut,
    abuf := Memory.fill s.params.abufCap (Config.freeByte (2 * s.draws)),
    dbuf := Memory.fill s.params.dbufCap (Config.freeByte (2 * s.draws + 1)),
    draws := s.draws + 1 }

/-- What a host read of a register returns (R44, R81): while BUSY = 1 zero but for STATUS; KEY reads zero; a
reserved offset reads zero. DESIGN CHOICE (log entry 21): STATUS returns ERR and ERRINFO as they stand while BUSY = 1
too, after CHECK or TAG_CMP wrote them and before DONE; R238 calls the error visible only when DONE = 1. -/
def regRead (r : HostReg) (s : State) : Word :=
  match r with
  | .status => s.status.toWord
  | .cmd => if s.status.busy then 0 else s.opc.setWidth 32
  | .sizes => if s.status.busy then 0 else s.sizes.toWord
  | .alenLo => if s.status.busy then 0 else s.alen.extractLsb' 0 32
  | .alenHi => if s.status.busy then 0 else s.alen.extractLsb' 32 32
  | .dlenLo => if s.status.busy then 0 else s.dlen.extractLsb' 0 32
  | .dlenHi => if s.status.busy then 0 else s.dlen.extractLsb' 32 32
  | .key _ => 0
  | .xnonce i => if s.status.busy then 0 else wordAt s.xnonce (4 * i.val)
  | .tag i => if s.status.busy then 0 else wordAt s.tag (4 * i.val)
  | .reserved => 0

/-- A host write of a register other than through the decoder of CMD (R44, R81): ignored while BUSY = 1; STATUS and
reserved offsets ignore writes; a write of CMD starts a command. -/
def regWrite (r : HostReg) (v : Word) (s : State) : State :=
  if s.status.busy then s
  else
    match r with
    | .cmd => startCommand v s
    | .status => s
    | .sizes => { s with sizes := Sizes.ofWord v }
    | .alenLo => { s with alen := s.alen.extractLsb' 32 32 ++ v }
    | .alenHi => { s with alen := v ++ s.alen.extractLsb' 0 32 }
    | .dlenLo => { s with dlen := s.dlen.extractLsb' 32 32 ++ v }
    | .dlenHi => { s with dlen := v ++ s.dlen.extractLsb' 0 32 }
    | .key i => { s with key := setWordAt s.key i.val v }
    | .xnonce i => { s with xnonce := setWordAt s.xnonce i.val v }
    | .tag i => { s with tag := setWordAt s.tag i.val v }
    | .reserved => s

/-- The output of a format P row (R88): a combinational network has no destination register, so the value goes to the
model's own port and every register keeps its value (log entry 6). -/
def State.output (s : State) (v : FnOut) : State := { s with fnOut := v }

end Sys2Proof.Machine
end

