-- ==== Sys2Proof/Machine/Aead.lean ====
section
/-! DEFINITION. The unit operations of the AEAD composition (R191, R196 to R202, R214). -/

namespace Sys2Proof.Machine

/-- IDLE (R202): the core has no step; only the host can act. With no host move to make, nothing changes
(log entry 7). -/
def execIdle (s : State) : Out := .next s

/-- CHECK (R191): the first failing contract test is reported, before any other work. -/
def execCheck (s : State) : Out :=
  match contractFailure s with
  | some i => .next (raiseContractViolation i s)
  | none => .next (s.setPhase Phase.hcLoad)

/-- MAC_AAD (R196). -/
def execMacAad (s : State) : Out :=
  match memRead .abuf s.scr.mpos.toNat (aadLen s) s with
  | .error f => .fault f
  | .ok b =>
    let acc := s.scr.absorbed (padBlock b)
    let m := s.scr.mpos + BitVec.ofNat 64 (aadLen s)
    if m = s.alen then
      .next { s with scr := { s.scr with acc := acc, mpos := 0 },
                     phase := if 0 < s.dlen.toNat then Phase.macData else Phase.macLen }
    else .next { s with scr := { s.scr with acc := acc, mpos := m } }

/-- MAC_DATA (R197): the bytes read are ciphertext in both commands. -/
def execMacData (s : State) : Out :=
  match memRead .dbuf s.scr.mpos.toNat (dataLen s) s with
  | .error f => .fault f
  | .ok b =>
    let acc := s.scr.absorbed (padBlock b)
    let m := s.scr.mpos + BitVec.ofNat 64 (dataLen s)
    if m = s.dlen then .next { s with scr := { s.scr with acc := acc, mpos := 0 }, phase := Phase.macLen }
    else .next { s with scr := { s.scr with acc := acc, mpos := m } }

/-- MAC_LEN (R198). -/
def execMacLen (s : State) : Out :=
  let b := lenBlock s
  .next { s with scr := { s.scr with acc := s.scr.absorbed b, lenblk := b }, phase := Phase.macFinal }

/-- TAG_OUT (R199). -/
def execTagOut (s : State) : Out := .next { s with tag := s.scr.ctag, phase := Phase.wipe }

/-- TAG_CMP (R200): all sixteen pairs, then one test of DIFF; decrypting begins only on equality. -/
def execTagCmp (s : State) : Out :=
  let d := tagDiff s.scr.ctag s.tag
  let t := { s with scr := { s.scr with diff := d } }
  if d = 0 then
    if 0 < s.dlen.toNat then .next { t with scr := { t.scr with ctr := 1 }, phase := Phase.blkLoad }
    else .next (t.setPhase Phase.wipe)
  else .next (raiseAuthenticationFailed t)

/-- FAIL_ERASE (R201): DBUF[0..DLEN-1] zero in one step. -/
def execFailErase (s : State) : Out :=
  match memWrite .dbuf 0 (List.replicate s.dlen.toNat 0) s with
  | .error f => .fault f
  | .ok t => .next (t.setPhase Phase.wipe)

/-- WIPE (R214): the last step of every command on every path. -/
def execWipe (s : State) : Out := .next (finishCommand (eraseSensitive s))

end Sys2Proof.Machine
end

