-- ==== Sys2Proof/Machine/Block.lean ====
section
/-! DEFINITION. The unit operations of the ChaCha20 block (R122 to R124). -/

namespace Sys2Proof.Machine

/-- BLK_LOAD (R122). -/
def execBlkLoad (s : State) : Out :=
  let w := initState s.scr.subkey s.scr.ctr s.scr.cnonce
  .next { s with scr := { s.scr with w := w, s0 := w, rnd := 0 }, phase := Phase.blkRound }

/-- BLK_ROUND (R123): S0 is not touched. -/
def execBlkRound (s : State) : Out := .next (roundPhase Phase.blkOut s)

/-- BLK_OUT (R124): add-back, serialization, W and S0 erased; `CTR = 0` selects OTK. -/
def execBlkOut (s : State) : Out :=
  .next { s with scr := { s.scr with ks := serialize16 (addBack s.scr.w s.scr.s0), w := zeroWords, s0 := zeroWords,
                                     rnd := 0 },
                 phase := if s.scr.ctr = 0 then Phase.otk else Phase.xor }

end Sys2Proof.Machine
end

