-- ==== Sys2Proof/Machine/Functions.lean ====
section
/-! DEFINITION. The format P rows: primitives and function forms (R88, R100 to R107, R120, R140, R152, R153, R175,
R194). A pure function's value goes to the model's output port and no register changes (log entry 6); ROUNDSTEP acts
on W and RND as R107 says. -/

namespace Sys2Proof.Machine

/-- ADD32 (R100). -/
def execAdd32 (a b : Word) (s : State) : Out := .next (s.output (.word (add32 a b)))

/-- XOR32 (R101). -/
def execXor32 (a b : Word) (s : State) : Out := .next (s.output (.word (xor32 a b)))

/-- ROTL32 (R102). -/
def execRotl32 (x : Word) (n : Nat) (s : State) : Out := .next (s.output (.word (rotl32 x n)))

/-- QR (R103). -/
def execQr (a b c d : Word) (s : State) : Out :=
  let (a', b', c', d') := quarterRound a b c d
  .next (s.output (.quad a' b' c' d'))

/-- COLROUND (R104). -/
def execColround (w : CipherState) (s : State) : Out := .next (s.output (.words (columnRound w)))

/-- DIAGROUND (R105). -/
def execDiaground (w : CipherState) (s : State) : Out := .next (s.output (.words (diagonalRound w)))

/-- DOUBLEROUND (R106). -/
def execDoubleround (w : CipherState) (s : State) : Out := .next (s.output (.words (doubleRound w)))

/-- PERM20 (R106). -/
def execPerm20 (w : CipherState) (s : State) : Out := .next (s.output (.words (perm20 w)))

/-- ROUNDSTEP (R107): the registers W and RND. -/
def execRoundstep (s : State) : Out := .next { s with scr := s.scr.roundStep }

/-- ChaCha20Block (R120). -/
def execChacha20Block (key : Vector Byte 32) (ctr : Word) (nonce : Vector Byte 12) (s : State) : Out :=
  .next (s.output (.bytes (chacha20Block key ctr nonce).toList))

/-- HChaCha20 (R140). -/
def execHchacha20 (key : Vector Byte 32) (pre : Vector Byte 16) (s : State) : Out :=
  .next (s.output (.bytes (hchacha20 key pre).toList))

/-- XChaCha20Xor (R152). -/
def execXchacha20Xor (key : Vector Byte 32) (xn : Vector Byte 24) (data : List Byte) (s : State) : Out :=
  .next (s.output (.bytes (xchacha20Xor key xn data)))

/-- XChaCha20PolyKey (R153). -/
def execXchacha20PolyKey (key : Vector Byte 32) (xn : Vector Byte 24) (s : State) : Out :=
  .next (s.output (.bytes (xchacha20PolyKey key xn).toList))

/-- Poly1305Mac (R175). -/
def execPoly1305Mac (otk : Vector Byte 32) (msg : List Byte) (s : State) : Out :=
  .next (s.output (.bytes (poly1305Mac otk msg).toList))

/-- MacInput (R194). -/
def execMacInput (aad ct : List Byte) (s : State) : Out := .next (s.output (.bytes (macInput aad ct)))

end Sys2Proof.Machine
end

