-- ==== Sys2Proof/Machine/HChaCha.lean ====
section
/-! DEFINITION. The unit operations of HChaCha20 (R141 to R143). -/

namespace Sys2Proof.Machine

/-- HC_LOAD (R141): S0 is not written. -/
def execHcLoad (s : State) : Out :=
  .next { s with scr := { s.scr with w := hInitState s.key (noncePrefix s.xnonce), rnd := 0 },
                 phase := Phase.hcRound }

/-- HC_ROUND (R142). -/
def execHcRound (s : State) : Out := .next (roundPhase Phase.hcOut s)

/-- HC_OUT (R143): the sub-key and the ChaCha20 nonce, W erased, the first block counter chosen. -/
def execHcOut (s : State) : Out :=
  .next { s with scr := { s.scr with subkey := subkeyOf s.scr.w, cnonce := chachaNonce s.xnonce, w := zeroWords,
                                     rnd := 0, ctr := if s.isEncrypt ∧ 0 < s.dlen.toNat then 1 else 0 },
                 phase := Phase.blkLoad }

end Sys2Proof.Machine
end

