-- ==== Sys2Proof/Machine/HostCommands.lean ====
section
/-! DEFINITION. The host commands (R82, R190): executing the write of a command word begins the command, whose steps
the phases are. R192 and R193 give what the whole command then leaves. -/

namespace Sys2Proof.Machine

/-- ENCRYPT (R82, R190, R192): START with the word `reserved || 0x01`. -/
def execEncrypt (reserved : BitVec 24) (s : State) : Out := .next (startCommand (reserved ++ opcEncrypt) s)

/-- DECRYPT (R82, R190, R193): START with the word `reserved || 0x02`. -/
def execDecrypt (reserved : BitVec 24) (s : State) : Out := .next (startCommand (reserved ++ opcDecrypt) s)

end Sys2Proof.Machine
end

