-- ==== Sys2Proof/Machine/Poly.lean ====
section
/-! DEFINITION. The unit operations of the Poly1305 unit (R176, R178) and its absorb helper (R177). -/

namespace Sys2Proof.Machine

/-- MAC_INIT (R176): an empty segment's phase is skipped. -/
def execMacInit (s : State) : Out :=
  .next { s with scr := { s.scr with r := macR s.scr.otk, s := macS s.scr.otk, acc := 0, mpos := 0 },
                 phase := if 0 < s.alen.toNat then Phase.macAad
                          else if 0 < s.dlen.toNat then Phase.macData else Phase.macLen }

/-- MAC_FINAL (R178): the tag computed, the MAC values and the one-time key erased. -/
def execMacFinal (s : State) : Out :=
  .next { s with scr := { s.scr with ctag := macTag s.scr.acc s.scr.s, r := 0, s := 0, acc := 0,
                                     otk := zeroBytes 32 },
                 phase := if s.isEncrypt then Phase.tagOut else Phase.tagCmp }

/-- MacAbsorb16(blk) (R177): ACC only. -/
def execMacAbsorb16 (blk : Vector Byte 16) (s : State) : Out := 
  .next { s with scr := { s.scr with acc := s.scr.absorbed blk } }

end Sys2Proof.Machine
end

