-- ==== Sys2Proof/Machine/Stream.lean ====
section
/-! DEFINITION. The unit operations of XChaCha20 (R154, R155). -/

namespace Sys2Proof.Machine

/-- OTK (R154). -/
def execOtk (s : State) : Out :=
  .next { s with scr := { s.scr with otk := firstHalf s.scr.ks, ks := zeroBytes 64 }, phase := Phase.macInit }

/-- The control transfer of the XOR step, on the values after its own updates (R155, R195). -/
def xorNext (s : State) : State :=
  if s.scr.pos.toNat < s.dlen.toNat then
    { s with scr := { s.scr with ctr := s.scr.ctr + 1 }, phase := Phase.blkLoad }
  else if s.isEncrypt then { s with scr := { s.scr with ctr := 0 }, phase := Phase.blkLoad }
  else s.setPhase Phase.wipe

/-- XOR (R155): one chunk of DBUF, the keystream erased unread beyond the chunk. -/
def execXor (s : State) : Out :=
  match memRead .dbuf s.scr.pos.toNat (xorLen s) s with
  | .error f => .fault f
  | .ok d =>
    match memWrite .dbuf s.scr.pos.toNat (xorBytes d s.scr.ks.toList) s with
    | .error f => .fault f
    | .ok t =>
      .next (xorNext { t with scr := { t.scr with ks := zeroBytes 64,
                                                  pos := t.scr.pos + BitVec.ofNat 64 (xorLen s) } })

end Sys2Proof.Machine
end

