-- ==== Sys2Proof/Machine/Dispatch.lean ====
section
/-! DEFINITION. One arm per row of the opcode table. -/

namespace Sys2Proof.Machine

def exec (i : Instr) (s : State) : Host.Outcome State Fault Refusal :=
  match i with
  | .encrypt a => Sys2Proof.Machine.execEncrypt a s
  | .decrypt a => Sys2Proof.Machine.execDecrypt a s
  | .idle => Sys2Proof.Machine.execIdle s
  | .check => Sys2Proof.Machine.execCheck s
  | .hcLoad => Sys2Proof.Machine.execHcLoad s
  | .hcRound => Sys2Proof.Machine.execHcRound s
  | .hcOut => Sys2Proof.Machine.execHcOut s
  | .blkLoad => Sys2Proof.Machine.execBlkLoad s
  | .blkRound => Sys2Proof.Machine.execBlkRound s
  | .blkOut => Sys2Proof.Machine.execBlkOut s
  | .otk => Sys2Proof.Machine.execOtk s
  | .xor => Sys2Proof.Machine.execXor s
  | .macInit => Sys2Proof.Machine.execMacInit s
  | .macAad => Sys2Proof.Machine.execMacAad s
  | .macData => Sys2Proof.Machine.execMacData s
  | .macLen => Sys2Proof.Machine.execMacLen s
  | .macFinal => Sys2Proof.Machine.execMacFinal s
  | .tagOut => Sys2Proof.Machine.execTagOut s
  | .tagCmp => Sys2Proof.Machine.execTagCmp s
  | .failErase => Sys2Proof.Machine.execFailErase s
  | .wipe => Sys2Proof.Machine.execWipe s
  | .add32 a b => Sys2Proof.Machine.execAdd32 a b s
  | .xor32 a b => Sys2Proof.Machine.execXor32 a b s
  | .rotl32 a b => Sys2Proof.Machine.execRotl32 a b s
  | .qr a b c d => Sys2Proof.Machine.execQr a b c d s
  | .colround a => Sys2Proof.Machine.execColround a s
  | .diaground a => Sys2Proof.Machine.execDiaground a s
  | .doubleround a => Sys2Proof.Machine.execDoubleround a s
  | .perm20 a => Sys2Proof.Machine.execPerm20 a s
  | .roundstep => Sys2Proof.Machine.execRoundstep s
  | .chacha20Block a b c => Sys2Proof.Machine.execChacha20Block a b c s
  | .hchacha20 a b => Sys2Proof.Machine.execHchacha20 a b s
  | .xchacha20Xor a b c => Sys2Proof.Machine.execXchacha20Xor a b c s
  | .xchacha20PolyKey a b => Sys2Proof.Machine.execXchacha20PolyKey a b s
  | .poly1305Mac a b => Sys2Proof.Machine.execPoly1305Mac a b s
  | .macAbsorb16 a => Sys2Proof.Machine.execMacAbsorb16 a s
  | .macInput a b => Sys2Proof.Machine.execMacInput a b s

end Sys2Proof.Machine
end

