-- ==== Sys2Proof/Machine/Fetch.lean ====
section
/-! DEFINITION. What the next step is (R20, R26, R190): the unit operation PHASE names, the command word the host
writes, or another move of the host (R44, R74, R89). -/

namespace Sys2Proof.Machine

/-- The next step: an instruction to execute on a state, or a move that is complete in itself. -/
inductive Fetch where
  | run (i : Instr) (s : State)
  | done (o : Out)

/-- The core's turn (R20, R28): it steps only while BUSY = 1, and then executes the unit operation PHASE names
(R26); while BUSY = 0 it is idle (R202). A reserved code has no step, whatever BUSY (R87, U11). -/
def coreFetch (s : State) : Fetch :=
  match decodePhase s.phase with
  | .ok i => .run (if s.status.busy then i else .idle) s
  | .error _ => .done (.fault .reservedPhase)

/-- A host write of the window (R81, R190): a word written to CMD is decoded and executed; an illegal opcode starts
a command all the same (R83). -/
def writeMove (off : Nat) (v : Word) (s : State) : Fetch :=
  match decodeRegOffset off with
  | .error _ => .done (.refused .noSuchRegister)
  | .ok .cmd =>
    match decodeCmd v with
    | .ok i => .run i s
    | .error _ => .done (.next (startCommand v s))
  | .ok r => .done (.next (regWrite r v s))

/-- A host read of the window (R44, R81). -/
def readMove (off : Nat) (s : State) : Fetch :=
  match decodeRegOffset off with
  | .error _ => .done (.refused .noSuchRegister)
  | .ok r => .done (.next { s with hostData := .word (regRead r s) })

/-- A host write of a buffer (R44, R74); while BUSY = 1 it is no move of the model (R270). -/
def bufWriteMove (sp : BufSpace) (off : Nat) (bs : List Byte) (s : State) : Fetch :=
  if s.status.busy then .done (.refused .bufferAccessWhileBusy)
  else
    match memWrite sp off bs s with
    | .ok t => .done (.next t)
    | .error f => .done (.fault f)

/-- A host read of a buffer (R44, R74); while BUSY = 1 it is no move of the model (R270). -/
def bufReadMove (sp : BufSpace) (off n : Nat) (s : State) : Fetch :=
  if s.status.busy then .done (.refused .bufferAccessWhileBusy)
  else
    match memRead sp off n s with
    | .ok bs => .done (.next { s with hostData := .bytes bs })
    | .error f => .done (.fault f)

/-- A move from outside the core, `rest` the moves after it. It leaves the script, but for `wait` (R89): that stays, and
the core takes its step, until STATUS reads with DONE = 1. -/
def moveFetch (m : HostMove) (rest : List HostMove) (s : State) : Fetch :=
  let t := { s with script := rest }
  match m with
  | .wait =>
    if s.status.done then .done (.next { t with hostData := .word s.status.toWord }) else coreFetch s
  | .core => coreFetch t
  | .wr off v => writeMove off v t
  | .rd off => readMove off t
  | .wrb sp off bs => bufWriteMove sp off bs t
  | .rdb sp off n => bufReadMove sp off n t
  | .reset => .done (.next (resetEvent t))

/-- What the next step is: the first move of the script, or with no move to come the core's turn. A state whose PHASE
holds a code above 18 is stuck (R87, U11): only the reset input, an event from outside (R260), leaves it (log
entry 11). -/
def fetch (s : State) : Fetch :=
  match s.script with
  | [] => coreFetch s
  | m :: rest =>
    if 18 < s.phase.toNat ∧ m ≠ .reset then .done (.fault .reservedPhase) else moveFetch m rest s

/-- The state with a word of the opcode table placed where the next step fetches (log entry 8): a PHASE code (up to
eight bits) in PHASE, with BUSY as R26 couples it, and the core's turn next; a CMD word as the host's next write. -/
def placeWord (s : State) (nbits w : Nat) : State :=
  if nbits ≤ 8 then
    { s with phase := BitVec.ofNat 5 w, status := { s.status with busy := decide (w % 32 ≠ 0) },
             script := .core :: s.script }
  else { s with script := .wr 0 (BitVec.ofNat 32 w) :: s.script }

end Sys2Proof.Machine
end

