-- ==== Sys2Proof/Machine/Commands.lean ====
section
/-! DEFINITION. The commands as functions of their operands (R192, R193): the big-step view, normative for the end
state of a command (R207). No step calls them: statements compare the run of a command with them. -/

namespace Sys2Proof.Machine

/-- `ABUF[0..ALEN-1]`. -/
def State.aadBytes (s : State) : List Byte := s.abuf.readBytes 0 s.alen.toNat

/-- `DBUF[0..DLEN-1]`. -/
def State.dataBytes (s : State) : List Byte := s.dbuf.readBytes 0 s.dlen.toNat

/-- `Poly1305Mac(XChaCha20PolyKey(key, xn), MacInput(aad, ct))` (R192, R193). -/
def authTag (key : Vector Byte 32) (xn : Vector Byte 24) (aad ct : List Byte) : Vector Byte 16 :=
  poly1305Mac (xchacha20PolyKey key xn) (macInput aad ct)

/-- The state when DONE = 1: STATUS, KEY, scratch and PHASE as R192 and R193 give them. -/
def endOfCommand (err : BitVec 2) (info : BitVec 4) (s : State) : State :=
  { s with status := { busy := false, done := true, err := err, errInfo := info }, key := zeroBytes 32,
           scr := Scratch.zero, phase := Phase.idle }

/-- ENCRYPT as a function (R192), of a state with a legal descriptor. -/
def encryptEnd (s : State) : State :=
  let ct := xchacha20Xor s.key s.xnonce s.dataBytes
  { endOfCommand 0 0 s with dbuf := s.dbuf.writeBytes 0 ct, tag := authTag s.key s.xnonce s.aadBytes ct }

/-- DECRYPT as a function (R193), of a state with a legal descriptor. -/
def decryptEnd (s : State) : State :=
  let ct := s.dataBytes
  if tagDiff (authTag s.key s.xnonce s.aadBytes ct) s.tag = 0 then
    { endOfCommand 0 0 s with dbuf := s.dbuf.writeBytes 0 (xchacha20Xor s.key s.xnonce ct) }
  else
    { endOfCommand errAuthentication 0 s with dbuf := s.dbuf.writeBytes 0 (List.replicate ct.length 0) }

/-- A command whose descriptor fails contract test i (R191, R234). -/
def violationEnd (i : BitVec 4) (s : State) : State := endOfCommand errContract i s

/-- The number of 64-byte chunks of the data, `nb` (R203). -/
def chunkCount (n : Nat) : Nat := (n + (chachaBlockSize - 1)) / chachaBlockSize

/-- The steps of ENCRYPT, and of DECRYPT when the tags match (R203): `51 + 23 nb + ca + cd`. -/
def commandSteps (s : State) : Nat :=
  51 + 23 * chunkCount s.dlen.toNat + blockCount s.alen.toNat + blockCount s.dlen.toNat

/-- The steps of DECRYPT when the tags differ (R203): `52 + ca + cd`. -/
def failedSteps (s : State) : Nat := 52 + blockCount s.alen.toNat + blockCount s.dlen.toNat

end Sys2Proof.Machine
end

