-- ==== Sys2Proof/Machine/HostScript.lean ====
section
/-! DEFINITION. The notation for host scripts (R89) and the pseudo-instructions (R90), as lists of host moves. -/

namespace Sys2Proof.Machine

/-- `wr REG, value` by the register's name (R89). -/
def wrReg (r : HostReg) (v : Word) : HostMove := .wr r.offset v

/-- `wrk KEY, hex` (R89): the eight word writes of R85. -/
def wrk (key : Vector Byte 32) : List HostMove :=
  (List.finRange 8).map fun i => wrReg (.key i) (wordAt key (4 * i.val))

/-- `wrn XNONCE, hex` (R89): the six word writes of R85. -/
def wrn (xn : Vector Byte 24) : List HostMove :=
  (List.finRange 6).map fun i => wrReg (.xnonce i) (wordAt xn (4 * i.val))

/-- `wrt TAG, hex` (R89): the four word writes of R85. -/
def wrt (tag : Vector Byte 16) : List HostMove :=
  (List.finRange 4).map fun i => wrReg (.tag i) (wordAt tag (4 * i.val))

/-- `start ENCRYPT` (R89). -/
def startEncrypt : HostMove := wrReg .cmd 0x00000001

/-- `start DECRYPT` (R89). -/
def startDecrypt : HostMove := wrReg .cmd 0x00000002

/-- The only legal SIZES word (R84). -/
def legalSizes : Word := 0x00101820

/-- The writes both pseudo-instructions make before the start (R90). -/
def descriptorScript (key : Vector Byte 32) (xn : Vector Byte 24) (aad data : List Byte) : List HostMove :=
  [wrReg .sizes legalSizes,
   wrReg .alenLo (BitVec.ofNat 32 aad.length), wrReg .alenHi (BitVec.ofNat 32 (aad.length / 2 ^ 32)),
   wrReg .dlenLo (BitVec.ofNat 32 data.length), wrReg .dlenHi (BitVec.ofNat 32 (data.length / 2 ^ 32))]
  ++ wrk key ++ wrn xn ++ [.wrb .abuf 0 aad, .wrb .dbuf 0 data]

/-- `encrypt(key, nonce, aad, data)` (R90), up to its `wait`; the results are then read by `rdb` and `rd`. -/
def encryptScript (key : Vector Byte 32) (xn : Vector Byte 24) (aad data : List Byte) : List HostMove :=
  descriptorScript key xn aad data ++ [startEncrypt, .wait]

/-- `decrypt(key, nonce, aad, data, tag)` (R90), up to its `wait`; STATUS.ERR and the results are then read. -/
def decryptScript (key : Vector Byte 32) (xn : Vector Byte 24) (aad data : List Byte) (tag : Vector Byte 16) :
    List HostMove :=
  descriptorScript key xn aad data ++ wrt tag ++ [startDecrypt, .wait]

end Sys2Proof.Machine
end

