-- ==== Sys2Proof/Safety.lean ====
section
/-! DEFINITION. What a sound state is, in the terms the statements use: the invariants the spec states of every state
between two steps (R22 to R29, R37 to R41, R46, R155, R206), phase by phase. -/

namespace Sys2Proof.Machine

/-- A phase is one of a list. -/
abbrev State.inPhase (s : State) (ps : List (BitVec 5)) : Prop := s.phase ∈ ps

/-- The phases in which W may hold a state (R22). -/
def cipherPhases : List (BitVec 5) := [Phase.hcRound, Phase.hcOut, Phase.blkRound, Phase.blkOut]

/-- The phases of a ChaCha20 block. -/
def blockPhases : List (BitVec 5) := [Phase.blkLoad, Phase.blkRound, Phase.blkOut]

/-- The phases in which R, S and ACC may hold values (R40, R178). -/
def macPhases : List (BitVec 5) := [Phase.macAad, Phase.macData, Phase.macLen, Phase.macFinal]

/-- The phases before the sub-key is written (R37). -/
def earlyPhases : List (BitVec 5) := [Phase.check, Phase.hcLoad, Phase.hcRound, Phase.hcOut]

/-- The phases in which the one-time key and the tag are worked out, by which time no data block is current. -/
def tagPhases : List (BitVec 5) :=
  [Phase.otk, Phase.macInit, Phase.macAad, Phase.macData, Phase.macLen, Phase.macFinal, Phase.tagOut, Phase.tagCmp]

/-- Both buffers are in canonical form and inside their capacities (R60, R61). -/
abbrev State.BuffersSound (s : State) : Prop :=
  s.abuf.wf ∧ s.dbuf.wf ∧ s.abuf.within s.params.abufCap ∧ s.dbuf.within s.params.dbufCap

/-- PHASE holds one of its nineteen codes (R86): the state is not stuck (R87). -/
abbrev State.PhaseNamed (s : State) : Prop := s.phase.toNat ≤ 18

/-- PHASE holds one of its nineteen codes, and is IDLE exactly when BUSY = 0 (R26). -/
abbrev State.PhaseSound (s : State) : Prop :=
  s.PhaseNamed ∧ (s.status.busy = true ↔ s.phase ≠ Phase.idle)

/-- STATUS is legal (R28, R231): ERR = 3 never, ERRINFO the number of a contract test exactly when ERR = 2, DONE
clear while BUSY; an error is recorded only on its error path (R233, R234). -/
abbrev State.StatusSound (s : State) : Prop :=
  s.status.err ≠ 3 ∧ (s.status.err ≠ errContract → s.status.errInfo = 0) ∧
  (s.status.err = errContract → 1 ≤ s.status.errInfo.toNat ∧ s.status.errInfo.toNat ≤ 6) ∧
  (s.status.busy = true → s.status.done = false) ∧
  (s.status.busy = true → s.status.err = errContract → s.phase = Phase.wipe) ∧
  (s.status.busy = true → s.status.err = errAuthentication → s.inPhase [Phase.failErase, Phase.wipe])

/-- The MAC registers are in their ranges (R40): ACC the canonical residue, R clamped, S of 128 bits. -/
abbrev State.MacSound (s : State) : Prop :=
  s.scr.acc < polyP ∧ s.scr.r &&& clampMask = s.scr.r ∧ s.scr.s < tagModulus

/-- Whenever PHASE = IDLE every other scratch register is zero (R46). -/
abbrev State.IdleErased (s : State) : Prop := s.phase = Phase.idle → s.scr = Scratch.zero

/-- The cipher registers hold something only in the phases that work on it (R22, R23, R24, R38). RND is 20, not
yet zero, before the OUT step that clears it (R107, R123, R142, R195; against R24's last sentence, log entry 9). -/
abbrev State.CipherSound (s : State) : Prop :=
  (s.scr.w ≠ zeroWords → s.inPhase cipherPhases) ∧
  (s.scr.s0 ≠ zeroWords → s.inPhase [Phase.blkRound, Phase.blkOut]) ∧
  (s.inPhase [Phase.hcRound, Phase.blkRound] → s.scr.rnd.toNat < 20) ∧
  (s.inPhase [Phase.hcOut, Phase.blkOut] → s.scr.rnd = 20) ∧
  (¬ s.inPhase cipherPhases → s.scr.rnd = 0) ∧
  (s.scr.ks ≠ zeroBytes 64 → s.inPhase [Phase.otk, Phase.xor])

/-- The MAC registers and the one-time key hold something only in the phases that use them (R39, R40), and MPOS is
inside its segment (R196, R197). -/
abbrev State.MacStaged (s : State) : Prop :=
  (s.scr.otk ≠ zeroBytes 32 → s.inPhase (Phase.macInit :: macPhases)) ∧
  (s.scr.r ≠ 0 ∨ s.scr.s ≠ 0 ∨ s.scr.acc ≠ 0 → s.inPhase macPhases) ∧
  (s.phase = Phase.macAad → s.scr.mpos.toNat < s.alen.toNat) ∧
  (s.phase = Phase.macData → s.scr.mpos.toNat < s.dlen.toNat) ∧
  (¬ s.inPhase [Phase.macAad, Phase.macData] → s.scr.mpos = 0)

/-- A command past CHECK has a legal descriptor (R191), and its one-command phases belong to it (R195). -/
abbrev State.DescriptorSound (s : State) : Prop :=
  (¬ s.inPhase [Phase.idle, Phase.check, Phase.wipe] → contractFailure s = none) ∧
  (s.phase = Phase.tagOut → s.opc = opcEncrypt) ∧
  (s.inPhase [Phase.tagCmp, Phase.failErase] → s.opc = opcDecrypt)

/-- Where the block counter and the data offset stand (R25, R155): a data block j has `CTR = j + 1` and
`POS = 64 j < DLEN`; the counter is 0 for the one-time-key block, before any data in DECRYPT, after all of it in
ENCRYPT (R203). -/
abbrev State.PositionSound (s : State) : Prop :=
  (s.inPhase earlyPhases → s.scr.ctr = 0 ∧ s.scr.pos = 0) ∧
  (s.phase = Phase.xor → s.scr.ctr ≠ 0) ∧
  (s.inPhase tagPhases → s.scr.ctr = 0) ∧
  (s.inPhase (Phase.xor :: blockPhases) → s.scr.ctr ≠ 0 →
    s.scr.pos.toNat = 64 * (s.scr.ctr.toNat - 1) ∧ s.scr.pos.toNat < s.dlen.toNat) ∧
  (s.inPhase (blockPhases ++ tagPhases) → s.scr.ctr = 0 →
    (s.opc = opcEncrypt → s.scr.pos = s.dlen) ∧ (s.opc ≠ opcEncrypt → s.scr.pos = 0))

/-- In DECRYPT a data block is current only when the computed tag equals the supplied one (R206). -/
abbrev State.Authenticated (s : State) : Prop :=
  s.opc = opcDecrypt → s.scr.ctr ≠ 0 → s.scr.ctag = s.tag

/-- The phases before the length block is built (R198). -/
def beforeLenPhases : List (BitVec 5) :=
  earlyPhases ++ [Phase.otk, Phase.macInit, Phase.macAad, Phase.macData, Phase.macLen]

/-- The values a command works out once and holds to its end hold something only once they are written (R29, R37, R41):
SUBKEY and CNONCE from HC_OUT on, LENBLK from MAC_LEN on, CTAG from MAC_FINAL on. ENCRYPT's blocks, and the
one-time-key block of DECRYPT (`CTR = 0`), precede MAC_LEN (R203). DIFF is nonzero on the failure path only. -/
abbrev State.ResultsStaged (s : State) : Prop :=
  (s.inPhase earlyPhases → s.scr.subkey = zeroBytes 32 ∧ s.scr.cnonce = zeroBytes 12) ∧
  (s.inPhase beforeLenPhases → s.scr.lenblk = zeroBytes 16 ∧ s.scr.ctag = zeroBytes 16) ∧
  (s.inPhase (Phase.xor :: blockPhases) → s.opc = opcEncrypt ∨ s.scr.ctr = 0 →
    s.scr.lenblk = zeroBytes 16 ∧ s.scr.ctag = zeroBytes 16) ∧
  (s.phase = Phase.macFinal → s.scr.ctag = zeroBytes 16) ∧
  (s.scr.diff ≠ 0 → s.inPhase [Phase.failErase, Phase.wipe])

/-- The invariant of the machine: what the spec says of every state between two steps. -/
structure State.Inv (s : State) : Prop where
  buffers : s.BuffersSound
  phaseCode : s.PhaseSound
  statusWord : s.StatusSound
  macRange : s.MacSound
  erased : s.IdleErased
  cipher : s.CipherSound
  macStage : s.MacStaged
  descriptor : s.DescriptorSound
  position : s.PositionSound
  authentic : s.Authenticated
  results : s.ResultsStaged

/-- The state a host leaves before it writes CMD: the invariant, and the core idle (R262). -/
structure State.Ready (s : State) : Prop where
  inv : s.Inv
  idle : s.status.busy = false

/-- The descriptor is legal for an opcode (R191): every contract test but the first passes. -/
abbrev State.operandsLegal (s : State) : Prop :=
  s.sizes = { klen := keySize, nlen := xnonceSize, tlen := tagSize } ∧ s.alen.toNat ≤ s.params.abufCap ∧
  s.dlen.toNat ≤ s.params.dbufCap ∧ s.dlen.toNat ≤ ctrMaxDlen

/-- `k` steps of the machine. -/
abbrev runSteps (k : Nat) (s : State) : Out := Host.Core.run Sys2Proof.core k s

/-- Executing instructions one after the other, up to the first that answers no next state. -/
def runInstrs : List Instr → State → Out
  | [], s => .next s
  | i :: is, s =>
    match exec i s with
    | .next t => runInstrs is t
    | .fault f => .fault f
    | .refused r => .refused r

/-- The host's read of the register at byte offset `off` returns `v` and changes nothing else (R44). -/
def State.ReadsAs (s : State) (off : Nat) (v : Word) : Prop :=
  ∀ rest, step { s with script := .rd off :: rest } = .next { s with script := rest, hostData := .word v }

/-- The host's write of `v` to the register at byte offset `off` leaves the state `t` (R44). -/
def State.WriteGives (s : State) (off : Nat) (v : Word) (t : State) : Prop :=
  ∀ rest, step { s with script := .wr off v :: rest } = .next { t with script := rest }

/-- Two states that differ in KEY and scratch only: what no host path reads (R34, R44, R241). -/
abbrev State.SamePublic (s s' : State) : Prop := { s with key := s'.key, scr := s'.scr } = s'

/-- Two states alike in everything the transition table tests but the tags (R195, R276): opcode, lengths, sizes,
capacities, status, phase and counters. -/
structure State.SameControl (s s' : State) : Prop where
  opc : s'.opc = s.opc
  status : s'.status = s.status
  sizes : s'.sizes = s.sizes
  alen : s'.alen = s.alen
  dlen : s'.dlen = s.dlen
  params : s'.params = s.params
  script : s'.script = s.script
  phase : s'.phase = s.phase
  rnd : s'.scr.rnd = s.scr.rnd
  ctr : s'.scr.ctr = s.scr.ctr
  pos : s'.scr.pos = s.scr.pos
  mpos : s'.scr.mpos = s.scr.mpos

end Sys2Proof.Machine
end

