-- ==== Sys2Proof/Certificates/Slice0/Obligations.lean ====
section
/-! DEFINITION. The statements for the provers, from the numbered rules of spec/. A clause that says the rest of the
state is unchanged is written as a record update of the state before. -/

section Statements

open Sys2Proof Sys2Proof.Machine

/-! ### Byte order and the word primitives -/

/-- R10, R63: little-endian words, integers and byte strings. -/
def Obligations.LittleEndianOrder : Prop :=
  (∀ b0 b1 b2 b3 : Byte,
    (le32 b0 b1 b2 b3).toNat = b0.toNat + 2 ^ 8 * b1.toNat + 2 ^ 16 * b2.toNat + 2 ^ 24 * b3.toNat) ∧
  (∀ (w : Word) (j : Nat), j < 4 → (wordByte w j).toNat = w.toNat / 2 ^ (8 * j) % 256) ∧
  leInt [] = 0 ∧ (∀ (b : Byte) (bs : List Byte), leInt (b :: bs) = b.toNat + 256 * leInt bs) ∧
  (∀ (n v i : Nat) (h : i < n), ((leBytes n v)[i]'h).toNat = v / 2 ^ (8 * i) % 256) ∧
  (∀ n v : Nat, v < 256 ^ n → leInt (leBytes n v).toList = v)

/-- R100, R101. -/
def Obligations.WordAddAndXor : Prop :=
  (∀ a b : Word, (add32 a b).toNat = (a.toNat + b.toNat) % 2 ^ 32) ∧
  add32 0xffffffff 1 = 0 ∧ (∀ a : Word, add32 a 0 = a) ∧ (∀ a b : Word, add32 a b = add32 b a) ∧
  (∀ a b c : Word, add32 (add32 a b) c = add32 a (add32 b c)) ∧ add32 0x77777777 0x01234567 = 0x789abcde ∧
  (∀ (a b : Word) (i : Nat), i < 32 → (xor32 a b).getLsbD i = (a.getLsbD i ^^ b.getLsbD i)) ∧
  (∀ a : Word, xor32 a a = 0) ∧ (∀ a : Word, xor32 a 0 = a) ∧ xor32 0x01020304 0x789abcde = 0x7998bfda

/-- R102: the value, where each bit goes, amounts modulo 32, the corner cases and examples. -/
def Obligations.RotateLeft : Prop :=
  (∀ (x : Word) (n : Nat), n ∈ [16, 12, 8, 7] →
    (rotl32 x n).toNat = x.toNat * 2 ^ n % 2 ^ 32 + x.toNat / 2 ^ (32 - n) ∧
    ∀ i, i < 32 → (rotl32 x n).getLsbD ((i + n) % 32) = x.getLsbD i) ∧
  (∀ (x : Word) (n : Nat), rotl32 x n = rotl32 x (n % 32)) ∧
  rotl32 0x80000000 16 = 0x00008000 ∧ rotl32 0x80000001 12 = 0x00001800 ∧ rotl32 0x7998bfda 7 = 0xcc5fed3c ∧
  rotl32 0x12345678 16 = 0x56781234 ∧ rotl32 0x12345678 12 = 0x45678123 ∧
  rotl32 0x12345678 8 = 0x34567812 ∧ rotl32 0x12345678 7 = 0x1a2b3c09

/-- R103: the twelve operations in order. The rule's own inference that QR is a bijection is not part of it. -/
def Obligations.QuarterRoundOrder : Prop :=
  (∀ a0 b0 c0 d0 : Word,
    let a1 := add32 a0 b0
    let d1 := rotl32 (xor32 d0 a1) 16
    let c1 := add32 c0 d1
    let b1 := rotl32 (xor32 b0 c1) 12
    let a2 := add32 a1 b1
    let d2 := rotl32 (xor32 d1 a2) 8
    let c2 := add32 c1 d2
    let b2 := rotl32 (xor32 b1 c2) 7
    quarterRound a0 b0 c0 d0 = (a2, b2, c2, d2)) ∧
  quarterRound 0 0 0 0 = (0, 0, 0, 0) ∧
  quarterRound 0x11111111 0x01020304 0x9b8d6f43 0x01234567 = (0xea2a92f4, 0xcb1cf8ce, 0x4581472e, 0x5881c4bb)

/-- R104, R105: each round is QR on each of its four groups of the state before it; and R109, the spec's inference from
the two: the four groups of a round may be taken in any order. -/
def Obligations.RoundGroups : Prop :=
  (∀ (w : CipherState) (i j k l : Fin 16), (i, j, k, l) ∈ [((0 : Fin 16), (4 : Fin 16), (8 : Fin 16), (12 : Fin 16)),
      (1, 5, 9, 13), (2, 6, 10, 14), (3, 7, 11, 15)] →
    ((columnRound w)[i], (columnRound w)[j], (columnRound w)[k], (columnRound w)[l]) =
      quarterRound w[i] w[j] w[k] w[l]) ∧
  (∀ (w : CipherState) (i j k l : Fin 16), (i, j, k, l) ∈ [((0 : Fin 16), (5 : Fin 16), (10 : Fin 16), (15 : Fin 16)),
      (1, 6, 11, 12), (2, 7, 8, 13), (3, 4, 9, 14)] →
    ((diagonalRound w)[i], (diagonalRound w)[j], (diagonalRound w)[k], (diagonalRound w)[l]) =
      quarterRound w[i] w[j] w[k] w[l]) ∧
  (∀ (w : CipherState) (lanes : List Lane),
    lanes.Perm [(0, 4, 8, 12), (1, 5, 9, 13), (2, 6, 10, 14), (3, 7, 11, 15)] → roundOn lanes w = columnRound w) ∧
  (∀ (w : CipherState) (lanes : List Lane),
    lanes.Perm [(0, 5, 10, 15), (1, 6, 11, 12), (2, 7, 8, 13), (3, 4, 9, 14)] → roundOn lanes w = diagonalRound w)

/-- R106 and R107 without their inferences: a double round, ten of them, and ROUNDSTEP on the registers W and RND, which
changes no other register. -/
def Obligations.DoubleRoundAndStep : Prop :=
  (∀ w : CipherState, doubleRound w = diagonalRound (columnRound w)) ∧
  (∀ w : CipherState, perm20 w = doubleRound (doubleRound (doubleRound (doubleRound (doubleRound
    (doubleRound (doubleRound (doubleRound (doubleRound (doubleRound w)))))))))) ∧
  (∀ s : State, exec .roundstep s =
    .next { s with scr := { s.scr with
      w := if s.scr.rnd.toNat % 2 = 0 then columnRound s.scr.w else diagonalRound s.scr.w
      rnd := s.scr.rnd + 1 } })

/-! ### The function forms -/

/-- R120, R121: the initial state word for word, and the block as the add-back of it, serialized little-endian. -/
def Obligations.ChaCha20BlockFunction : Prop :=
  ∀ (key : Vector Byte 32) (ctr : Word) (nonce : Vector Byte 12),
    let s0 := initState key ctr nonce
    s0[0] = 0x61707865 ∧ s0[1] = 0x3320646e ∧ s0[2] = 0x79622d32 ∧ s0[3] = 0x6b206574 ∧
    (∀ i : Fin 8, s0[4 + i.val] = wordAt key (4 * i.val)) ∧ s0[12] = ctr ∧
    (∀ i : Fin 3, s0[13 + i.val] = wordAt nonce (4 * i.val)) ∧
    (∀ (i : Fin 16) (j : Fin 4),
      (chacha20Block key ctr nonce)[4 * i.val + j.val] = wordByte (add32 (perm20 s0)[i] s0[i]) j.val)

/-- R140: the loaded state, and the sub-key as words 0 to 3 and 12 to 15 of the permuted state, with no add-back. That
the words of the 16-byte input ascend is the spec's choice D9 (log entry 10), so this is no plain rule of the source. -/
def Obligations.HChaCha20Function : Prop :=
  ∀ (key : Vector Byte 32) (pre : Vector Byte 16),
    let h := hInitState key pre
    h[0] = 0x61707865 ∧ h[1] = 0x3320646e ∧ h[2] = 0x79622d32 ∧ h[3] = 0x6b206574 ∧
    (∀ i : Fin 8, h[4 + i.val] = wordAt key (4 * i.val)) ∧
    (∀ i : Fin 4, h[12 + i.val] = wordAt pre (4 * i.val)) ∧
    (∀ i j : Fin 4, (hchacha20 key pre)[4 * i.val + j.val] = wordByte (perm20 h)[i.val] j.val ∧
      (hchacha20 key pre)[16 + 4 * i.val + j.val] = wordByte (perm20 h)[12 + i.val] j.val)

/-- R152 without its inference (the involution): the output is as long as the data, and byte t of chunk j is the data
byte xor byte t of the block with counter 1 + j. -/
def Obligations.XChaCha20XorFunction : Prop :=
  ∀ (key : Vector Byte 32) (xn : Vector Byte 24) (data : List Byte), data.length ≤ (2 ^ 32 - 1) * 64 →
    (xchacha20Xor key xn data).length = data.length ∧
    ∀ (j : Nat) (t : Fin 64), 64 * j + t.val < data.length →
      (xchacha20Xor key xn data).getD (64 * j + t.val) 0 =
        data.getD (64 * j + t.val) 0 ^^^
          (chacha20Block (hchacha20 key (noncePrefix xn)) (BitVec.ofNat 32 (1 + j)) (chachaNonce xn))[t]

/-- R150, R151, R153: prefix and suffix of the nonce, and the one-time key as the first half of block 0. -/
def Obligations.NonceAndPolyKey : Prop :=
  (∀ (key : Vector Byte 32) (xn : Vector Byte 24),
    (∀ i : Fin 16, (noncePrefix xn)[i] = xn[i.val]) ∧
    (∀ i : Fin 4, (chachaNonce xn)[i.val] = 0) ∧ (∀ i : Fin 8, (chachaNonce xn)[4 + i.val] = xn[16 + i.val]) ∧
    (∀ i : Fin 32, (xchacha20PolyKey key xn)[i] =
      (chacha20Block (hchacha20 key (noncePrefix xn)) 0 (chachaNonce xn))[i.val])) ∧
  (∀ (sk : Vector Byte 32) (ctr : Word) (xn : Vector Byte 24), (initState sk ctr (chachaNonce xn))[13] = 0 ∧
    (initState sk ctr (chachaNonce xn))[14] = wordAt xn 16 ∧ (initState sk ctr (chachaNonce xn))[15] = wordAt xn 20)

/-- R170, R171: the halves of the one-time key; the clamp clears 22 bits of the multiplier and keeps the others. The
mask is the spec's choice D23 (log entry 10), so this is no plain rule of the source. -/
def Obligations.KeySplitAndClamp : Prop :=
  ∀ otk : Vector Byte 32,
    macS otk = leInt (otk.toList.drop 16) ∧
    macR otk = leInt (otk.toList.take 16) &&& 0x0ffffffc0ffffffc0ffffffc0fffffff ∧
    (∀ k ∈ [28, 29, 30, 31, 32, 33, 60, 61, 62, 63, 64, 65, 92, 93, 94, 95, 96, 97, 124, 125, 126, 127],
      (macR otk).testBit k = false) ∧
    (∀ k, k < 128 →
      k ∉ [28, 29, 30, 31, 32, 33, 60, 61, 62, 63, 64, 65, 92, 93, 94, 95, 96, 97, 124, 125, 126, 127] →
      (macR otk).testBit k = (leInt (otk.toList.take 16)).testBit k) ∧
    macR otk < 2 ^ 124

/-- R172: how a message is cut into blocks, and the value of a block. -/
def Obligations.PolyBlockValue : Prop :=
  (∀ msg : List Byte, (List.range (blockCount msg.length)).flatMap (messageBlock msg) = msg) ∧
  (∀ (msg : List Byte) (j : Nat), j < blockCount msg.length →
    1 ≤ (messageBlock msg j).length ∧ (messageBlock msg j).length ≤ 16 ∧
    (j + 1 < blockCount msg.length → (messageBlock msg j).length = 16)) ∧
  (∀ b : List Byte, 1 ≤ b.length → b.length ≤ 16 → blockVal b = leInt b + 2 ^ (8 * b.length)) ∧
  (∀ b : List Byte, b.length = 16 → 2 ^ 128 ≤ blockVal b ∧ blockVal b < 2 ^ 129) ∧
  blockVal [0x75, 0x70] = 0x017075

/-- R173, R174: one accumulation step, its bound, and the tag. -/
def Obligations.AbsorbAndTag : Prop :=
  (∀ acc r v : Nat, absorb acc r v = (acc + v) * r % (2 ^ 130 - 5) ∧ absorb acc r v < 2 ^ 130 - 5) ∧
  (∀ acc r v : Nat, acc < 2 ^ 130 → v < 2 ^ 129 → r < 2 ^ 124 → (acc + v) * r < 2 ^ 255) ∧
  absorb 0 0x0806d5400e52447c036d555408bed685 0x016f4620636968706172676f7470797243 =
    0x2c88c77849d64ae9147ddeb88e69c83fc ∧
  (∀ acc s : Nat, leInt (macTag acc s).toList = (acc + s) % 2 ^ 128) ∧
  (macTag 0x28d31b7caff946c77c8844335369d03a7 0x1bf54941aff6bf4afdb20dfb8a800301).toList =
    [0xa8, 0x06, 0x1d, 0xc1, 0x30, 0x51, 0x36, 0xc6, 0xc2, 0x2b, 0x8b, 0xaf, 0x0c, 0x01, 0x27, 0xa9]

/-- R175: the loop over the blocks, one block at a time, and the corner cases: the empty message, a zero multiplier,
and a trailing zero byte. -/
def Obligations.Poly1305Function : Prop :=
  (∀ (otk : Vector Byte 32) (msg : List Byte),
    poly1305Mac otk msg = macTag (macAcc (macR otk) msg) (macS otk)) ∧
  (∀ r : Nat, macAcc r [] = 0) ∧
  (∀ (r : Nat) (msg b : List Byte), msg.length % 16 = 0 → 1 ≤ b.length → b.length ≤ 16 →
    macAcc r (msg ++ b) = absorb (macAcc r msg) r (blockVal b)) ∧
  (∀ otk : Vector Byte 32, (poly1305Mac otk []).toList = otk.toList.drop 16) ∧
  (∀ (otk : Vector Byte 32) (msg : List Byte), macR otk = 0 → (poly1305Mac otk msg).toList = otk.toList.drop 16) ∧
  macTag (macAcc 1 [0x05]) 0 ≠ macTag (macAcc 1 [0x05, 0x00]) 0

/-- R194 without its inference: the padding and the framing. -/
def Obligations.MacFraming : Prop :=
  (∀ x : List Byte, pad16 x = x ++ List.replicate ((16 - x.length % 16) % 16) 0 ∧ (pad16 x).length % 16 = 0 ∧
    (x.length % 16 = 0 → pad16 x = x) ∧ (pad16 x).length < x.length + 16) ∧
  (∀ aad ct : List Byte, aad.length < 2 ^ 64 → ct.length < 2 ^ 64 →
    macInput aad ct =
      pad16 aad ++ pad16 ct ++ (leBytes 8 aad.length).toList ++ (leBytes 8 ct.length).toList ∧
    (macInput aad ct).length % 16 = 0 ∧ 16 ≤ (macInput aad ct).length)

/-- Each pure row of format P completes in every state, with its function's value on the model's output port and
every register unchanged: no flag, no exception (R88). The port is the model's choice (log entry 6), and so is that a
row runs on ill-formed operands too, and the value there (log entry 20). -/
def Obligations.PureRowsComplete : Prop :=
  (∀ (s : State) (a b : Word), exec (.add32 a b) s = .next { s with fnOut := .word (add32 a b) }) ∧
  (∀ (s : State) (a b : Word), exec (.xor32 a b) s = .next { s with fnOut := .word (xor32 a b) }) ∧
  (∀ (s : State) (x : Word) (n : Nat), exec (.rotl32 x n) s = .next { s with fnOut := .word (rotl32 x n) }) ∧
  (∀ (s : State) (a b c d a' b' c' d' : Word), quarterRound a b c d = (a', b', c', d') →
    exec (.qr a b c d) s = .next { s with fnOut := .quad a' b' c' d' }) ∧
  (∀ (s : State) (w : CipherState), exec (.colround w) s = .next { s with fnOut := .words (columnRound w) }) ∧
  (∀ (s : State) (w : CipherState), exec (.diaground w) s = .next { s with fnOut := .words (diagonalRound w) }) ∧
  (∀ (s : State) (w : CipherState), exec (.doubleround w) s = .next { s with fnOut := .words (doubleRound w) }) ∧
  (∀ (s : State) (w : CipherState), exec (.perm20 w) s = .next { s with fnOut := .words (perm20 w) }) ∧
  (∀ (s : State) (key : Vector Byte 32) (ctr : Word) (nonce : Vector Byte 12),
    exec (.chacha20Block key ctr nonce) s = .next { s with fnOut := .bytes (chacha20Block key ctr nonce).toList }) ∧
  (∀ (s : State) (key : Vector Byte 32) (pre : Vector Byte 16),
    exec (.hchacha20 key pre) s = .next { s with fnOut := .bytes (hchacha20 key pre).toList }) ∧
  (∀ (s : State) (key : Vector Byte 32) (xn : Vector Byte 24) (data : List Byte),
    exec (.xchacha20Xor key xn data) s = .next { s with fnOut := .bytes (xchacha20Xor key xn data) }) ∧
  (∀ (s : State) (key : Vector Byte 32) (xn : Vector Byte 24),
    exec (.xchacha20PolyKey key xn) s = .next { s with fnOut := .bytes (xchacha20PolyKey key xn).toList }) ∧
  (∀ (s : State) (otk : Vector Byte 32) (msg : List Byte),
    exec (.poly1305Mac otk msg) s = .next { s with fnOut := .bytes (poly1305Mac otk msg).toList }) ∧
  (∀ (s : State) (aad ct : List Byte),
    exec (.macInput aad ct) s = .next { s with fnOut := .bytes (macInput aad ct) })

/-! ### The unit operations -/

/-- R122. -/
def Obligations.BlkLoad : Prop :=
  ∀ s : State, exec .blkLoad s =
    .next { s with
      scr := { s.scr with
        w := initState s.scr.subkey s.scr.ctr s.scr.cnonce
        s0 := initState s.scr.subkey s.scr.ctr s.scr.cnonce
        rnd := 0 }
      phase := Phase.blkRound }

/-- R123, R142: one round in each phase and the successor when RND reaches 20. That twenty rounds from RND = 0 leave
PERM20(W) is R107's own inference ("[derived: from rule R106]"). And what R107, R123,
R142 and R195 leave of R24's last sentence: a step of the core in any phase but the two ROUND phases leaves RND zero (log
entry 9). -/
def Obligations.RoundPhases : Prop :=
  (∀ (i : Instr) (after : BitVec 5), (i, after) ∈ [(Instr.blkRound, Phase.blkOut), (Instr.hcRound, Phase.hcOut)] →
    (∀ s : State, exec i s =
      .next { s with
        scr := { s.scr with
          w := if s.scr.rnd.toNat % 2 = 0 then columnRound s.scr.w else diagonalRound s.scr.w
          rnd := s.scr.rnd + 1 }
        phase := if s.scr.rnd + 1 = 20 then after else s.phase }) ∧
    (∀ s : State, s.scr.rnd = 0 → runInstrs (List.replicate 20 i) s =
      .next { s with scr := { s.scr with w := perm20 s.scr.w, rnd := 20 }, phase := after }) ∧
    (∀ (s : State) (k : Nat), s.scr.rnd = 0 → k < 20 → ∃ t, runInstrs (List.replicate k i) s = .next t ∧
      t.phase = s.phase ∧ t.scr.rnd.toNat = k)) ∧
  (∀ s t : State, s.Inv → s.script = [] → s.phase ≠ Phase.hcRound → s.phase ≠ Phase.blkRound → step s = .next t →
    t.scr.rnd = 0)

/-- R124. -/
def Obligations.BlkOut : Prop :=
  ∀ s : State, ∃ t, exec .blkOut s = .next t ∧
    (∀ (i : Fin 16) (j : Fin 4),
      t.scr.ks[4 * i.val + j.val] = wordByte (add32 s.scr.w[i] s.scr.s0[i]) j.val) ∧
    t = { s with
      scr := { s.scr with ks := t.scr.ks, w := Vector.replicate 16 0, s0 := Vector.replicate 16 0, rnd := 0 }
      phase := if s.scr.ctr = 0 then Phase.otk else Phase.xor }

/-- R141. That the words of XNONCE[0..15] ascend in W[12..15] is the spec's choice D9 (log entry 10). -/
def Obligations.HcLoad : Prop :=
  ∀ s : State, ∃ t, exec .hcLoad s = .next t ∧
    t.scr.w[0] = 0x61707865 ∧ t.scr.w[1] = 0x3320646e ∧ t.scr.w[2] = 0x79622d32 ∧ t.scr.w[3] = 0x6b206574 ∧
    (∀ i : Fin 8, t.scr.w[4 + i.val] = wordAt s.key (4 * i.val)) ∧
    (∀ i : Fin 4, t.scr.w[12 + i.val] = wordAt s.xnonce (4 * i.val)) ∧
    t = { s with scr := { s.scr with w := t.scr.w, rnd := 0 }, phase := Phase.hcRound }

/-- R143. -/
def Obligations.HcOut : Prop :=
  ∀ s : State, ∃ t, exec .hcOut s = .next t ∧
    (∀ i j : Fin 4, t.scr.subkey[4 * i.val + j.val] = wordByte s.scr.w[i.val] j.val ∧
      t.scr.subkey[16 + 4 * i.val + j.val] = wordByte s.scr.w[12 + i.val] j.val) ∧
    (∀ i : Fin 4, t.scr.cnonce[i.val] = 0) ∧ (∀ i : Fin 8, t.scr.cnonce[4 + i.val] = s.xnonce[16 + i.val]) ∧
    (s.opc = 0x01 ∧ 0 < s.dlen.toNat → t.scr.ctr = 1) ∧ (¬ (s.opc = 0x01 ∧ 0 < s.dlen.toNat) → t.scr.ctr = 0) ∧
    t = { s with
      scr := { s.scr with
        subkey := t.scr.subkey
        cnonce := t.scr.cnonce
        w := Vector.replicate 16 0
        rnd := 0
        ctr := t.scr.ctr }
      phase := Phase.blkLoad }

/-- R154 without its inference, R199: OTK takes the first half of KS and erases KS; TAG_OUT copies CTAG to TAG. -/
def Obligations.OtkAndTagOut : Prop :=
  (∀ s : State, ∃ t, exec .otk s = .next t ∧ (∀ i : Fin 32, t.scr.otk[i] = s.scr.ks[i.val]) ∧
    t = { s with scr := { s.scr with otk := t.scr.otk, ks := Vector.replicate 64 0 }, phase := Phase.macInit }) ∧
  (∀ s : State, exec .tagOut s = .next { s with tag := s.scr.ctag, phase := Phase.wipe })

/-- R155 without its last inference (the whole of the data): the step where the chunk exists (the precondition of
R66), and in a state of the invariant what R155 says of the entry. That POS = 64 (CTR - 1) there is R155's own inference
("[derived: POS starts at 0 with CTR 1 and they advance together]"). -/
def Obligations.XorChunk : Prop :=
  (∀ s : State, s.dbuf.wf → s.scr.pos.toNat < s.dlen.toNat → s.dlen.toNat ≤ s.params.dbufCap →
    let n := min 64 (s.dlen.toNat - s.scr.pos.toNat)
    ∃ t, exec .xor s = .next t ∧
      (∀ k : Fin 64, k.val < n →
        t.dbuf.read (s.scr.pos.toNat + k.val) = s.dbuf.read (s.scr.pos.toNat + k.val) ^^^ s.scr.ks[k]) ∧
      (∀ a : Nat, a < s.scr.pos.toNat ∨ s.scr.pos.toNat + n ≤ a → t.dbuf.read a = s.dbuf.read a) ∧
      t.scr.pos.toNat = s.scr.pos.toNat + n ∧
      (t.scr.pos.toNat < s.dlen.toNat → t.scr.ctr = s.scr.ctr + 1 ∧ t.phase = Phase.blkLoad) ∧
      (t.scr.pos.toNat = s.dlen.toNat → s.opc = 0x01 → t.scr.ctr = 0 ∧ t.phase = Phase.blkLoad) ∧
      (t.scr.pos.toNat = s.dlen.toNat → s.opc ≠ 0x01 → t.scr.ctr = s.scr.ctr ∧ t.phase = Phase.wipe) ∧
      t = { s with
        dbuf := t.dbuf
        scr := { s.scr with ks := Vector.replicate 64 0, pos := t.scr.pos, ctr := t.scr.ctr }
        phase := t.phase }) ∧
  (∀ s : State, s.Inv → s.phase = Phase.xor →
    0 < s.dlen.toNat ∧ s.scr.pos.toNat = 64 * (s.scr.ctr.toNat - 1) ∧ s.scr.pos.toNat < s.dlen.toNat ∧
    (s.scr.pos.toNat + 64 < s.dlen.toNat → s.scr.ctr.toNat + 1 ≤ 2 ^ 32 - 1))

/-- R176. The mask written out is the spec's choice D23 (log entry 10). -/
def Obligations.MacInit : Prop :=
  ∀ s : State, exec .macInit s =
    .next { s with
      scr := { s.scr with
        r := leInt (s.scr.otk.toList.take 16) &&& 0x0ffffffc0ffffffc0ffffffc0fffffff
        s := leInt (s.scr.otk.toList.drop 16)
        acc := 0
        mpos := 0 }
      phase := if 0 < s.alen.toNat then Phase.macAad else if 0 < s.dlen.toNat then Phase.macData else Phase.macLen }

/-- R177. -/
def Obligations.MacAbsorb16 : Prop :=
  ∀ (s : State) (blk : Vector Byte 16), exec (.macAbsorb16 blk) s =
    .next { s with
      scr := { s.scr with acc := (s.scr.acc + (leInt blk.toList + 2 ^ 128)) * s.scr.r % (2 ^ 130 - 5) } }

/-- R196, where the block exists (the precondition of R66): one step, and that the phase executes `ceil(ALEN / 16)`
times. ABUF is not written. In a state of the invariant the phase has AAD left. -/
def Obligations.MacAad : Prop :=
  (∀ s : State, s.scr.mpos.toNat < s.alen.toNat → s.alen.toNat ≤ s.params.abufCap →
    let n := min 16 (s.alen.toNat - s.scr.mpos.toNat)
    let blk : Vector Byte 16 := Vector.ofFn fun k => if k.val < n then s.abuf.read (s.scr.mpos.toNat + k.val) else 0
    ∃ t, exec .macAad s = .next t ∧
      t.scr.acc = absorb s.scr.acc s.scr.r (leInt blk.toList + 2 ^ 128) ∧
      (s.scr.mpos.toNat + n < s.alen.toNat →
        t.scr.mpos.toNat = s.scr.mpos.toNat + n ∧ t.phase = s.phase) ∧
      (s.scr.mpos.toNat + n = s.alen.toNat →
        t.scr.mpos = 0 ∧ t.phase = if 0 < s.dlen.toNat then Phase.macData else Phase.macLen) ∧
      t = { s with scr := { s.scr with acc := t.scr.acc, mpos := t.scr.mpos }, phase := t.phase }) ∧
  (∀ s : State, s.status.busy = true → s.script = [] → s.phase = Phase.macAad → s.scr.mpos = 0 →
    0 < s.alen.toNat → s.alen.toNat ≤ s.params.abufCap →
    (∀ k, k < (s.alen.toNat + 15) / 16 → ∃ t, runSteps k s = .next t ∧ t.phase = Phase.macAad) ∧
    ∃ t, runSteps ((s.alen.toNat + 15) / 16) s = .next t ∧ t.scr.mpos = 0 ∧
      t.phase = if 0 < s.dlen.toNat then Phase.macData else Phase.macLen) ∧
  (∀ s : State, s.Inv → s.phase = Phase.macAad → 0 < s.alen.toNat ∧ s.scr.mpos.toNat < s.alen.toNat)

/-- R197, where the block exists (the precondition of R66): one step, and that the phase executes `ceil(DLEN / 16)`
times. DBUF is not written. In a state of the invariant the phase has data left. -/
def Obligations.MacData : Prop :=
  (∀ s : State, s.scr.mpos.toNat < s.dlen.toNat → s.dlen.toNat ≤ s.params.dbufCap →
    let n := min 16 (s.dlen.toNat - s.scr.mpos.toNat)
    let blk : Vector Byte 16 := Vector.ofFn fun k => if k.val < n then s.dbuf.read (s.scr.mpos.toNat + k.val) else 0
    ∃ t, exec .macData s = .next t ∧
      t.scr.acc = absorb s.scr.acc s.scr.r (leInt blk.toList + 2 ^ 128) ∧
      (s.scr.mpos.toNat + n < s.dlen.toNat →
        t.scr.mpos.toNat = s.scr.mpos.toNat + n ∧ t.phase = s.phase) ∧
      (s.scr.mpos.toNat + n = s.dlen.toNat → t.scr.mpos = 0 ∧ t.phase = Phase.macLen) ∧
      t = { s with scr := { s.scr with acc := t.scr.acc, mpos := t.scr.mpos }, phase := t.phase }) ∧
  (∀ s : State, s.status.busy = true → s.script = [] → s.phase = Phase.macData → s.scr.mpos = 0 →
    0 < s.dlen.toNat → s.dlen.toNat ≤ s.params.dbufCap →
    (∀ k, k < (s.dlen.toNat + 15) / 16 → ∃ t, runSteps k s = .next t ∧ t.phase = Phase.macData) ∧
    ∃ t, runSteps ((s.dlen.toNat + 15) / 16) s = .next t ∧ t.scr.mpos = 0 ∧ t.phase = Phase.macLen) ∧
  (∀ s : State, s.Inv → s.phase = Phase.macData → 0 < s.dlen.toNat ∧ s.scr.mpos.toNat < s.dlen.toNat)

/-- R198. -/
def Obligations.MacLen : Prop :=
  ∀ s : State, ∃ t, exec .macLen s = .next t ∧
    (∀ i : Fin 8, (t.scr.lenblk[i.val]).toNat = s.alen.toNat / 2 ^ (8 * i.val) % 256 ∧
      (t.scr.lenblk[8 + i.val]).toNat = s.dlen.toNat / 2 ^ (8 * i.val) % 256) ∧
    t.scr.acc = absorb s.scr.acc s.scr.r (leInt t.scr.lenblk.toList + 2 ^ 128) ∧
    t = { s with scr := { s.scr with lenblk := t.scr.lenblk, acc := t.scr.acc }, phase := Phase.macFinal }

/-- R178. -/
def Obligations.MacFinal : Prop :=
  ∀ s : State, ∃ t, exec .macFinal s = .next t ∧
    leInt t.scr.ctag.toList = (s.scr.acc + s.scr.s) % 2 ^ 128 ∧
    t = { s with
      scr := { s.scr with ctag := t.scr.ctag, r := 0, s := 0, acc := 0, otk := Vector.replicate 32 0 }
      phase := if s.opc = 0x01 then Phase.tagOut else Phase.tagCmp }

/-- R200: DIFF is the OR of all sixteen XORed pairs, and DIFF = 0 means the tags are equal. -/
def Obligations.TagCompare : Prop :=
  ∀ s : State, ∃ t, exec .tagCmp s = .next t ∧
    t.scr.diff = (List.finRange 16).foldl (fun d i => d ||| (s.scr.ctag[i] ^^^ s.tag[i])) 0 ∧
    (t.scr.diff = 0 ↔ s.scr.ctag = s.tag) ∧
    (t.scr.diff = 0 → 0 < s.dlen.toNat →
      t = { s with scr := { s.scr with diff := 0, ctr := 1 }, phase := Phase.blkLoad }) ∧
    (t.scr.diff = 0 → s.dlen.toNat = 0 → t = { s with scr := { s.scr with diff := 0 }, phase := Phase.wipe }) ∧
    (t.scr.diff ≠ 0 →
      t = { s with
        scr := { s.scr with diff := t.scr.diff }
        status := { s.status with err := 1 }
        phase := Phase.failErase })

/-- R201, where the data exists (the precondition of R67). -/
def Obligations.FailErase : Prop :=
  ∀ s : State, s.dbuf.wf → s.dlen.toNat ≤ s.params.dbufCap →
    ∃ t, exec .failErase s = .next t ∧ (∀ a : Nat, a < s.dlen.toNat → t.dbuf.read a = 0) ∧
      (∀ a : Nat, s.dlen.toNat ≤ a → t.dbuf.read a = s.dbuf.read a) ∧
      t = { s with dbuf := t.dbuf, phase := Phase.wipe }

/-- R214: every register of the sensitive set, STATUS and PHASE; ERR and ERRINFO are kept; and no other step of the
core ends a command. -/
def Obligations.WipeErases : Prop :=
  (∀ s : State, exec .wipe s =
    .next { s with
      scr := { w := Vector.replicate 16 0, s0 := Vector.replicate 16 0, rnd := 0, ctr := 0, pos := 0, mpos := 0,
               subkey := Vector.replicate 32 0, cnonce := Vector.replicate 12 0, ks := Vector.replicate 64 0,
               otk := Vector.replicate 32 0, r := 0, s := 0, acc := 0, lenblk := Vector.replicate 16 0,
               ctag := Vector.replicate 16 0, diff := 0 }
      key := Vector.replicate 32 0
      status := { busy := false, done := true, err := s.status.err, errInfo := s.status.errInfo }
      phase := Phase.idle }) ∧
  (∀ s t : State, s.status.busy = true → s.script = [] → step s = .next t → t.status.busy = false →
    s.phase = Phase.wipe)

/-- R191, R234: the first failing test in the order written is reported and the command ends in two steps, CHECK and
WIPE, with nothing but STATUS, KEY, scratch and PHASE written. -/
def Obligations.ContractChecks : Prop :=
  ∀ s : State,
    let info : BitVec 4 :=
      if s.opc ≠ 0x01 ∧ s.opc ≠ 0x02 then 1
      else if s.sizes.klen ≠ 32 then 2
      else if s.sizes.nlen ≠ 24 then 3
      else if s.sizes.tlen ≠ 16 then 4
      else if s.params.abufCap < s.alen.toNat then 5
      else if s.params.dbufCap < s.dlen.toNat ∨ 274877906880 < s.dlen.toNat then 6
      else 0
    (info = 0 → exec .check s = .next { s with phase := Phase.hcLoad }) ∧
    (info ≠ 0 → exec .check s =
      .next { s with status := { s.status with err := 2, errInfo := info }, phase := Phase.wipe }) ∧
    (info ≠ 0 → s.phase = Phase.check → s.status.busy = true → s.script = [] →
      runSteps 2 s = .next { s with
        status := { busy := false, done := true, err := 2, errInfo := info }
        key := Vector.replicate 32 0
        scr := Scratch.zero
        phase := Phase.idle })

/-- R202: IDLE has no step of the core, which the model shows as a step that changes nothing (log entry 7), and it is
left only by START. A code above 18 is no IDLE: there the state is stuck (NamedStops). -/
def Obligations.IdleLeftByStart : Prop :=
  (∀ s : State, exec .idle s = .next s) ∧
  (∀ s : State, s.PhaseNamed → s.status.busy = false → s.script = [] → step s = .next s) ∧
  (∀ s t : State, s.status.busy = false → step s = .next t → t.status.busy = true →
    ∃ v rest, s.script = .wr 0x00 v :: rest ∧
      t = { s with opc := v.setWidth 8, status := { busy := true, done := false, err := 0, errInfo := 0 },
                   phase := Phase.check, script := rest })

/-- R190: what the write of CMD does, for every word; ignored while busy. That executing the instruction ENCRYPT or
DECRYPT is this write is the model's reading (log entry 1). With a code above 18 in PHASE no move is made (R87). -/
def Obligations.StartCommand : Prop :=
  (∀ (s : State) (v : Word), s.PhaseNamed → s.status.busy = false →
    s.WriteGives 0x00 v
      { s with opc := v.setWidth 8, status := { busy := true, done := false, err := 0, errInfo := 0 },
               phase := Phase.check }) ∧
  (∀ (s : State) (v : Word), s.PhaseNamed → s.status.busy = true → s.WriteGives 0x00 v s) ∧
  (∀ (s : State) (r : BitVec 24), s.status.busy = false →
    exec (.encrypt r) s =
      .next { s with opc := 0x01, status := { busy := true, done := false, err := 0, errInfo := 0 },
                     phase := Phase.check } ∧
    exec (.decrypt r) s =
      .next { s with opc := 0x02, status := { busy := true, done := false, err := 0, errInfo := 0 },
                     phase := Phase.check }) ∧
  (∀ (s : State) (r : BitVec 24), s.status.busy = true →
    exec (.encrypt r) s = .next s ∧ exec (.decrypt r) s = .next s)

/-- R83: an illegal opcode written while idle starts a command that ends in CHECK with BAD_CMD, and DBUF and TAG are not
touched. -/
def Obligations.IllegalOpcode : Prop :=
  ∀ (s : State) (v : Word), s.Ready → s.script = [] → v.toNat % 256 ≠ 1 → v.toNat % 256 ≠ 2 →
    runSteps 3 { s with script := [.wr 0x00 v] } = .next { s with
      opc := v.setWidth 8
      status := { busy := false, done := true, err := 2, errInfo := 1 }
      key := Vector.replicate 32 0
      phase := Phase.idle }

/-- Where the model stops by name: a reserved phase code, whatever BUSY, on the core's turn and on every move but the
reset input (R87, U11; log entry 11), the host's access to a buffer while busy (R270; log entry 12), a register access outside
the window (log entry 13), and an access to a byte that does not exist, by the host or by the core (log entry 14). The
stops are the model's choices. -/
def Obligations.NamedStops : Prop :=
  (∀ s : State, 19 ≤ s.phase.toNat → (s.script = [] → step s = .fault .reservedPhase) ∧
    ∀ (m : HostMove) (rest : List HostMove), m ≠ .reset → step { s with script := m :: rest } = .fault .reservedPhase) ∧
  (∀ (s : State) (sp : BufSpace) (off n : Nat) (bs : List Byte) (rest : List HostMove), s.PhaseNamed →
    s.status.busy = true →
    step { s with script := .wrb sp off bs :: rest } = .refused .bufferAccessWhileBusy ∧
    step { s with script := .rdb sp off n :: rest } = .refused .bufferAccessWhileBusy) ∧
  (∀ (s : State) (off : Nat) (v : Word) (rest : List HostMove), s.PhaseNamed → off % 4 ≠ 0 ∨ 0x80 ≤ off →
    step { s with script := .wr off v :: rest } = .refused .noSuchRegister ∧
    step { s with script := .rd off :: rest } = .refused .noSuchRegister) ∧
  (∀ (s : State) (sp : BufSpace) (off n : Nat) (bs : List Byte) (rest : List HostMove), s.PhaseNamed →
    s.status.busy = false →
    (s.cap sp < off + bs.length → step { s with script := .wrb sp off bs :: rest } = .fault .outsideBuffer) ∧
    (s.cap sp < off + n → step { s with script := .rdb sp off n :: rest } = .fault .outsideBuffer)) ∧
  (∀ s : State, (s.params.dbufCap < s.scr.pos.toNat + xorLen s → exec .xor s = .fault .outsideBuffer) ∧
    (s.params.abufCap < s.scr.mpos.toNat + aadLen s → exec .macAad s = .fault .outsideBuffer) ∧
    (s.params.dbufCap < s.scr.mpos.toNat + dataLen s → exec .macData s = .fault .outsideBuffer) ∧
    (s.params.dbufCap < s.dlen.toNat → exec .failErase s = .fault .outsideBuffer))

/-- R66, R67: what the n bytes of a read are, and that a write sets its bytes and no other; the core never writes ABUF.
That the canonical form is kept is the model's representation (log entry 5); that the host's `rdb` and `wrb` while idle
are these operations is R44 and R89 (log entry 3). -/
def Obligations.BufferAccess : Prop :=
  (∀ (s : State) (sp : BufSpace) (off n : Nat), off + n ≤ s.cap sp →
    ∃ bs : List Byte, memRead sp off n s = .ok bs ∧ bs.length = n ∧
      (∀ k, k < n → bs.getD k 0 = (s.buf sp).read (off + k)) ∧
      (s.PhaseNamed → s.status.busy = false → ∀ rest, step { s with script := .rdb sp off n :: rest } =
        .next { s with script := rest, hostData := .bytes bs })) ∧
  (∀ (s : State) (sp : BufSpace) (off : Nat) (v : List Byte), (s.buf sp).wf → off + v.length ≤ s.cap sp →
    ∃ t : State, memWrite sp off v s = .ok t ∧
      (∀ k, k < v.length → (t.buf sp).read (off + k) = v.getD k 0) ∧
      (∀ a, a < off ∨ off + v.length ≤ a → (t.buf sp).read a = (s.buf sp).read a) ∧
      (t.buf sp).wf ∧ t = s.setBuf sp (t.buf sp) ∧
      (s.PhaseNamed → s.status.busy = false → ∀ rest, step { s with script := .wrb sp off v :: rest } =
        .next { t with script := rest })) ∧
  (∀ s t : State, s.status.busy = true → s.script = [] → step s = .next t → t.abuf = s.abuf)

/-! ### Encodings and the step -/

/-- R82, R86: the CMD word and the phase codes, each code written out; the ignored bits; a step of the busy core executes
the unit operation of the current code. The codes R87 reserves decode to nothing. -/
def Obligations.OpcodeTables : Prop :=
  (∀ w : Word, (w &&& 0xff = 0x01 → decode (.cmd w) = .ok (.encrypt (w.extractLsb' 8 24))) ∧
    (w &&& 0xff = 0x02 → decode (.cmd w) = .ok (.decrypt (w.extractLsb' 8 24))) ∧
    (w &&& 0xff ≠ 0x01 → w &&& 0xff ≠ 0x02 → decode (.cmd w) = .error (.illegalOpcode (w.setWidth 8)))) ∧
  (∀ s : State, s.PhaseNamed → s.status.busy = false → s.ReadsAs 0x00 (BitVec.ofNat 32 s.opc.toNat)) ∧
  [0, 1, 2, 3, 4, 5, 6, 7, 8, 9, 10, 11, 12, 13, 14, 15, 16, 17, 18].map
      (fun n => (decode (.phase (BitVec.ofNat 5 n))).toOption) =
    [some .idle, some .check, some .hcLoad, some .hcRound, some .hcOut, some .blkLoad, some .blkRound, some .blkOut,
     some .otk, some .xor, some .macInit, some .macAad, some .macData, some .macLen, some .macFinal, some .tagOut,
     some .tagCmp, some .failErase, some .wipe] ∧
  (∀ (s : State) (i : Instr), s.status.busy = true → s.script = [] → decode (.phase s.phase) = .ok i →
    step s = exec i s) ∧
  (∀ c : BitVec 5, 19 ≤ c.toNat → decode (.phase c) = .error (.reservedPhase c))

/-- Decoding and encoding agree on every code of both formats, and through the table's numbering of bits; only the
format P rows have no encoding (R82, R86, R88). The clause on bytes rests on the model's layout of a code in bytes (log
entry 16). -/
def Obligations.DecodeEncodeAgree : Prop :=
  (∀ (i : Instr) (c : Code), encode i = some c ↔ decode c = .ok i) ∧
  (∀ (i : Instr) (bs : List Byte), decodeBytes bs = .ok i ↔ ∃ c, encode i = some c ∧ c.bytes = bs) ∧
  (∀ w : Word, decodeTableWord 32 w.toNat = (decode (.cmd w)).toOption) ∧
  (∀ p : BitVec 5, decodeTableWord 5 p.toNat = (decode (.phase p)).toOption)

/-- A step runs the decoded instruction: the phase's, on the core's turn (no host move to come, a `core` move, or a
`wait` before DONE), and the command word's, on the host's write of CMD. The moves `core` and `wait` are log entry 3's and
where withFetchWord places a word is log entry 8's: these clauses are about the model's choices. -/
def Obligations.StepRunsDecoded : Prop :=
  (∀ (s : State) (i : Instr), s.status.busy = true → decode (.phase s.phase) = .ok i →
    (s.script = [] → step s = exec i s) ∧
    (∀ rest, step { s with script := .core :: rest } = exec i { s with script := rest }) ∧
    (∀ rest, s.status.done = false →
      step { s with script := .wait :: rest } = exec i { s with script := .wait :: rest })) ∧
  (∀ (s : State) (v : Word) (i : Instr) (rest : List HostMove), s.PhaseNamed → decode (.cmd v) = .ok i →
    step { s with script := .wr 0x00 v :: rest } = exec i { s with script := rest }) ∧
  (∀ (s : State) (v : Word) (i : Instr), s.PhaseNamed → decodeTableWord 32 v.toNat = some i →
    step (s.withFetchWord 32 v.toNat) = exec i s) ∧
  (∀ (s : State) (p : BitVec 5) (i : Instr), decodeTableWord 5 p.toNat = some i →
    step (s.withFetchWord 5 p.toNat) =
      exec i { s with phase := p, status := { s.status with busy := decide (p ≠ 0) } })

/-! ### The host's registers -/

/-- R44, R81: what every register of the window reads as and what a write of it does, idle and busy, and the buffers
while idle; STATUS by its fields (R28). No value read depends on scratch. That STATUS shows ERR and ERRINFO as they stand
before DONE too is the model's choice (log entry 21). A state whose PHASE is none of the nineteen
codes is stuck (R87): NamedStops. -/
def Obligations.HostAccessTable : Prop :=
  (∀ s : State, s.PhaseNamed → s.ReadsAs 0x04
    ((if s.status.busy then 1 else 0) ||| (if s.status.done then 1 else 0) <<< 1 ||| s.status.err.setWidth 32 <<< 2 |||
      s.status.errInfo.setWidth 32 <<< 4)) ∧
  (∀ s : State, s.PhaseNamed → s.status.busy = true → ∀ (k : Fin 32) (v : Word), s.WriteGives (4 * k.val) v s ∧
    (k ≠ 1 → s.ReadsAs (4 * k.val) 0)) ∧
  (∀ s : State, s.PhaseNamed → s.status.busy = false →
    s.ReadsAs 0x00 (s.opc.setWidth 32) ∧
    s.ReadsAs 0x08 (s.sizes.klen.setWidth 32 ||| s.sizes.nlen.setWidth 32 <<< 8 ||| s.sizes.tlen.setWidth 32 <<< 16) ∧
    s.ReadsAs 0x10 (s.alen.setWidth 32) ∧ s.ReadsAs 0x14 ((s.alen >>> 32).setWidth 32) ∧
    s.ReadsAs 0x18 (s.dlen.setWidth 32) ∧ s.ReadsAs 0x1C ((s.dlen >>> 32).setWidth 32) ∧
    (∀ i : Fin 8, s.ReadsAs (0x20 + 4 * i.val) 0) ∧
    (∀ i : Fin 6, s.ReadsAs (0x40 + 4 * i.val) (wordAt s.xnonce (4 * i.val))) ∧
    (∀ i : Fin 4, s.ReadsAs (0x60 + 4 * i.val) (wordAt s.tag (4 * i.val))) ∧
    (∀ off ∈ [0x0C, 0x58, 0x5C, 0x70, 0x74, 0x78, 0x7C], s.ReadsAs off 0)) ∧
  (∀ (s : State) (v : Word), s.PhaseNamed → s.status.busy = false →
    s.WriteGives 0x00 v
      { s with opc := v.setWidth 8, status := { busy := true, done := false, err := 0, errInfo := 0 },
               phase := Phase.check } ∧
    s.WriteGives 0x08 v
      { s with sizes := { klen := v.setWidth 8, nlen := (v >>> 8).setWidth 8, tlen := (v >>> 16).setWidth 8 } } ∧
    s.WriteGives 0x10 v { s with alen := s.alen.extractLsb' 32 32 ++ v } ∧
    s.WriteGives 0x14 v { s with alen := v ++ s.alen.extractLsb' 0 32 } ∧
    s.WriteGives 0x18 v { s with dlen := s.dlen.extractLsb' 32 32 ++ v } ∧
    s.WriteGives 0x1C v { s with dlen := v ++ s.dlen.extractLsb' 0 32 } ∧
    (∀ i : Fin 8, s.WriteGives (0x20 + 4 * i.val) v { s with key := setWordAt s.key i.val v }) ∧
    (∀ i : Fin 6, s.WriteGives (0x40 + 4 * i.val) v { s with xnonce := setWordAt s.xnonce i.val v }) ∧
    (∀ i : Fin 4, s.WriteGives (0x60 + 4 * i.val) v { s with tag := setWordAt s.tag i.val v }) ∧
    (∀ off ∈ [0x04, 0x0C, 0x58, 0x5C, 0x70, 0x74, 0x78, 0x7C], s.WriteGives off v s)) ∧
  (∀ (s : State) (sp : BufSpace) (off n : Nat) (bs : List Byte) (rest : List HostMove), s.PhaseNamed →
    s.status.busy = false →
    (off + n ≤ s.cap sp → step { s with script := .rdb sp off n :: rest } =
      .next { s with script := rest, hostData := .bytes ((List.range n).map fun k => (s.buf sp).read (off + k)) }) ∧
    (off + bs.length ≤ s.cap sp → step { s with script := .wrb sp off bs :: rest } =
      .next (State.setBuf { s with script := rest } sp ((s.buf sp).writeBytes off bs))))

/-- R84: the 64-bit lengths from their halves, the sizes from their bytes, and what MAC_LEN serializes; beside it how
a word write changes the bytes of KEY, XNONCE and TAG (R85). -/
def Obligations.OperandAssembly : Prop :=
  (∀ (s : State) (lo hi : Word), s.PhaseNamed → s.status.busy = false →
    (∃ t u : State, s.WriteGives 0x10 lo t ∧ t.WriteGives 0x14 hi u ∧
      u.alen.toNat = hi.toNat * 2 ^ 32 + lo.toNat ∧ u = { s with alen := u.alen }) ∧
    (∃ t u : State, s.WriteGives 0x18 lo t ∧ t.WriteGives 0x1C hi u ∧
      u.dlen.toNat = hi.toNat * 2 ^ 32 + lo.toNat ∧ u = { s with dlen := u.dlen })) ∧
  (∀ (s : State) (v : Word), s.PhaseNamed → s.status.busy = false → ∃ t : State, s.WriteGives 0x08 v t ∧
    t.sizes.klen.toNat = v.toNat % 256 ∧ t.sizes.nlen.toNat = v.toNat / 2 ^ 8 % 256 ∧
    t.sizes.tlen.toNat = v.toNat / 2 ^ 16 % 256 ∧ t = { s with sizes := t.sizes }) ∧
  (∀ s : State, s.PhaseNamed → s.status.busy = false →
    s.WriteGives 0x08 0x00101820 { s with sizes := { klen := 32, nlen := 24, tlen := 16 } }) ∧
  (∀ s : State, leInt ((lenBlock s).toList.take 8) = s.alen.toNat ∧
    leInt ((lenBlock s).toList.drop 8) = s.dlen.toNat) ∧
  (∀ (v : Vector Byte 32) (i : Fin 8) (x : Word) (k : Fin 32), (setWordAt v i.val x)[k] =
    if k.val / 4 = i.val then wordByte x (k.val % 4) else v[k]) ∧
  (∀ (v : Vector Byte 24) (i : Fin 6) (x : Word) (k : Fin 24), (setWordAt v i.val x)[k] =
    if k.val / 4 = i.val then wordByte x (k.val % 4) else v[k]) ∧
  (∀ (v : Vector Byte 16) (i : Fin 4) (x : Word) (k : Fin 16), (setWordAt v i.val x)[k] =
    if k.val / 4 = i.val then wordByte x (k.val % 4) else v[k])

/-! ### Reset and invariants -/

/-- R45, R260: every register of R21 is zero right after reset and after a reset event from any state; that the event is
a move of the script, completes in every state and leaves the rest of the script is the model's (log entry 3). And a
command started with SIZES still zero, whatever the word and whatever else the host has written, ends with
ContractViolation: BAD_KEY_SIZE, or BAD_CMD where the opcode is illegal. -/
def Obligations.ResetRegisters : Prop :=
  (∀ s : State, s = State.reset ∨ (∃ u : State, ∃ rest, u.script = .reset :: rest ∧ step u = .next s) →
    s.opc = 0 ∧ s.status = { busy := false, done := false, err := 0, errInfo := 0 } ∧
    s.sizes = { klen := 0, nlen := 0, tlen := 0 } ∧ s.alen = 0 ∧ s.dlen = 0 ∧ s.key = Vector.replicate 32 0 ∧
    s.xnonce = Vector.replicate 24 0 ∧ s.tag = Vector.replicate 16 0 ∧ s.phase = 0 ∧
    s.scr = { w := Vector.replicate 16 0, s0 := Vector.replicate 16 0, rnd := 0, ctr := 0, pos := 0, mpos := 0,
              subkey := Vector.replicate 32 0, cnonce := Vector.replicate 12 0, ks := Vector.replicate 64 0,
              otk := Vector.replicate 32 0, r := 0, s := 0, acc := 0, lenblk := Vector.replicate 16 0,
              ctag := Vector.replicate 16 0, diff := 0 }) ∧
  (∀ (u : State) (rest : List HostMove), u.script = .reset :: rest → ∃ s, step u = .next s ∧ s.script = rest) ∧
  (∀ (s : State) (v : Word), s.PhaseNamed → s.status.busy = false →
    s.sizes = { klen := 0, nlen := 0, tlen := 0 } →
    ∃ t, runSteps 3 { s with script := [.wr 0x00 v] } = .next t ∧
      t.status = { busy := false, done := true, err := 2,
                   errInfo := if v.toNat % 256 = 1 ∨ v.toNat % 256 = 2 then 2 else 1 } ∧
      t.ReadsAs 0x04 (if v.toNat % 256 = 1 ∨ v.toNat % 256 = 2 then 0x0000002A else 0x0000001A))

/-- The state right after reset meets the invariant. -/
def Obligations.ResetInvariant : Prop := State.Inv State.reset

/-- The invariant of Safety.lean, every part of it: each step that answers a next state keeps it, whoever acts. Its
clause that RND is 20 before an OUT step follows the pseudocode against R24's sentence (log entry 9). -/
def Obligations.InvariantKept : Prop :=
  ∀ s t : State, s.Inv → step s = .next t → t.Inv

/-- R46, the scratch half: with nothing else assumed, every step keeps "IDLE means all other scratch is zero". -/
def Obligations.IdleErasedKept : Prop :=
  ∀ s t : State, s.IdleErased → step s = .next t → t.IdleErased

/-- R66, R67, R230: from a state that meets the invariant the core's step never faults and is never refused. -/
def Obligations.CoreNeverStops : Prop :=
  ∀ s : State, s.Inv → s.script = [] → ∃ t, step s = .next t ∧ t.script = []

/-- R42, R67, R71: what a step of the core leaves alone, whatever the phase: ABUF, DBUF at and above DLEN, the
descriptor but for TAG in TAG_OUT and KEY in WIPE, and DBUF outside XOR and FAIL_ERASE. R71 calls TAG constant through a
command; that TAG_OUT writes it (R36, R199) is read as R71's exception (log entry 19). -/
def Obligations.CoreStepFrame : Prop :=
  ∀ s t : State, s.status.busy = true → s.script = [] → step s = .next t →
    t = { s with status := t.status, key := t.key, tag := t.tag, phase := t.phase, scr := t.scr, dbuf := t.dbuf } ∧
    (∀ a : Nat, s.dlen.toNat ≤ a → t.dbuf.read a = s.dbuf.read a) ∧
    (s.phase ≠ Phase.tagOut → t.tag = s.tag) ∧ (s.phase ≠ Phase.wipe → t.key = s.key) ∧
    (s.phase ≠ Phase.xor → s.phase ≠ Phase.failErase → t.dbuf = s.dbuf) ∧
    (s.phase ≠ Phase.check → s.phase ≠ Phase.tagCmp → s.phase ≠ Phase.wipe → t.status = s.status)

/-- R195: every control transfer of the core. The rows on MPOS are tested before the step's own MPOS <- 0. -/
def Obligations.TransitionTable : Prop :=
  (∀ (s : State) (v : Word), s.status.busy = false → s.phase = Phase.idle →
    ∃ t, s.WriteGives 0x00 v t ∧ t.phase = Phase.check) ∧
  ∀ s t : State, s.status.busy = true → s.script = [] → step s = .next t →
    (s.phase = Phase.check → contractFailure s ≠ none → t.phase = Phase.wipe) ∧
    (s.phase = Phase.check → contractFailure s = none → t.phase = Phase.hcLoad) ∧
    (s.phase = Phase.hcLoad → t.phase = Phase.hcRound) ∧
    (s.phase = Phase.hcRound → t.scr.rnd.toNat < 20 → t.phase = Phase.hcRound) ∧
    (s.phase = Phase.hcRound → t.scr.rnd.toNat = 20 → t.phase = Phase.hcOut) ∧
    (s.phase = Phase.hcOut → t.phase = Phase.blkLoad ∧
      t.scr.ctr = if s.opc = 0x01 ∧ 0 < s.dlen.toNat then 1 else 0) ∧
    (s.phase = Phase.blkLoad → t.phase = Phase.blkRound) ∧
    (s.phase = Phase.blkRound → t.scr.rnd.toNat < 20 → t.phase = Phase.blkRound) ∧
    (s.phase = Phase.blkRound → t.scr.rnd.toNat = 20 → t.phase = Phase.blkOut) ∧
    (s.phase = Phase.blkOut → t.phase = if t.scr.ctr = 0 then Phase.otk else Phase.xor) ∧
    (s.phase = Phase.otk → t.phase = Phase.macInit) ∧
    (s.phase = Phase.xor → t.scr.pos.toNat < s.dlen.toNat → t.phase = Phase.blkLoad ∧ t.scr.ctr = s.scr.ctr + 1) ∧
    (s.phase = Phase.xor → t.scr.pos.toNat = s.dlen.toNat → s.opc = 0x01 →
      t.phase = Phase.blkLoad ∧ t.scr.ctr = 0) ∧
    (s.phase = Phase.xor → t.scr.pos.toNat = s.dlen.toNat → s.opc = 0x02 → t.phase = Phase.wipe) ∧
    (s.phase = Phase.macInit → 0 < s.alen.toNat → t.phase = Phase.macAad) ∧
    (s.phase = Phase.macInit → s.alen.toNat = 0 → 0 < s.dlen.toNat → t.phase = Phase.macData) ∧
    (s.phase = Phase.macInit → s.alen.toNat = 0 → s.dlen.toNat = 0 → t.phase = Phase.macLen) ∧
    (s.phase = Phase.macAad → s.scr.mpos.toNat + aadLen s < s.alen.toNat → t.phase = Phase.macAad) ∧
    (s.phase = Phase.macAad → s.scr.mpos.toNat + aadLen s = s.alen.toNat → 0 < s.dlen.toNat →
      t.phase = Phase.macData ∧ t.scr.mpos = 0) ∧
    (s.phase = Phase.macAad → s.scr.mpos.toNat + aadLen s = s.alen.toNat → s.dlen.toNat = 0 →
      t.phase = Phase.macLen ∧ t.scr.mpos = 0) ∧
    (s.phase = Phase.macData → s.scr.mpos.toNat + dataLen s < s.dlen.toNat → t.phase = Phase.macData) ∧
    (s.phase = Phase.macData → s.scr.mpos.toNat + dataLen s = s.dlen.toNat →
      t.phase = Phase.macLen ∧ t.scr.mpos = 0) ∧
    (s.phase = Phase.macLen → t.phase = Phase.macFinal) ∧
    (s.phase = Phase.macFinal → s.opc = 0x01 → t.phase = Phase.tagOut) ∧
    (s.phase = Phase.macFinal → s.opc = 0x02 → t.phase = Phase.tagCmp) ∧
    (s.phase = Phase.tagOut → t.phase = Phase.wipe) ∧
    (s.phase = Phase.tagCmp → t.scr.diff = 0 → 0 < s.dlen.toNat → t.phase = Phase.blkLoad ∧ t.scr.ctr = 1) ∧
    (s.phase = Phase.tagCmp → t.scr.diff = 0 → s.dlen.toNat = 0 → t.phase = Phase.wipe) ∧
    (s.phase = Phase.tagCmp → t.scr.diff ≠ 0 → t.phase = Phase.failErase) ∧
    (s.phase = Phase.failErase → t.phase = Phase.wipe) ∧
    (s.phase = Phase.wipe → t.phase = Phase.idle)

/-! ### Secrecy and order -/

/-- R34, R44, R241: what a host move does and returns does not depend on KEY or on scratch. -/
def Obligations.HostCannotSeeSecrets : Prop :=
  ∀ (s s' t : State) (m : HostMove) (rest : List HostMove), s.SamePublic s' → s.script = m :: rest → m ≠ .core →
    (m = .wait → s.status.done = true) → step s = .next t → ∃ t', step s' = .next t' ∧ t.SamePublic t'

/-- R276, R203: the sequence of phases depends on the tags only through their equality, and on no other secret: two
states alike in what the transition table tests step to states alike in it. -/
def Obligations.PhasesHideSecrets : Prop :=
  ∀ s s' t : State, s.SameControl s' → s.script = [] →
    (s.phase = Phase.tagCmp → (s.scr.ctag = s.tag ↔ s'.scr.ctag = s'.tag)) → step s = .next t →
    ∃ t', step s' = .next t' ∧ t.SameControl t'

/-- R206: in DECRYPT, a core step changes DBUF only to erase it or, the tags being equal, to decrypt it; data
processing begins only at a successful TAG_CMP. In ENCRYPT the MAC runs when all data has been processed. -/
def Obligations.VerifyThenDecrypt : Prop :=
  (∀ s t : State, s.Inv → s.script = [] → s.opc = 0x02 → step s = .next t →
    (t.dbuf ≠ s.dbuf → s.phase = Phase.failErase ∨ s.phase = Phase.xor ∧ s.scr.ctag = s.tag) ∧
    (s.scr.ctr = 0 → t.scr.ctr ≠ 0 → s.phase = Phase.tagCmp ∧ s.scr.ctag = s.tag)) ∧
  (∀ s t : State, s.Inv → s.script = [] → s.opc = 0x01 → step s = .next t → t.scr.acc ≠ s.scr.acc →
    s.scr.pos = s.dlen)

/-! ### Whole blocks and whole commands -/

/-- R125: the 22 steps of a ChaCha20 block give the block function, whatever W and S0 held. -/
def Obligations.BlockAgreement : Prop :=
  ∀ s : State, s.status.busy = true → s.script = [] → s.phase = Phase.blkLoad →
    runSteps 22 s = .next { s with
      scr := { s.scr with
        ks := chacha20Block s.scr.subkey s.scr.ctr s.scr.cnonce
        w := Vector.replicate 16 0
        s0 := Vector.replicate 16 0
        rnd := 0 }
      phase := if s.scr.ctr = 0 then Phase.otk else Phase.xor }

/-- R144: the 22 steps of HChaCha20 give the sub-key and the ChaCha20 nonce, and leave S0 untouched. -/
def Obligations.HChaChaAgreement : Prop :=
  ∀ s : State, s.status.busy = true → s.script = [] → s.phase = Phase.hcLoad →
    runSteps 22 s = .next { s with
      scr := { s.scr with
        subkey := hchacha20 s.key (noncePrefix s.xnonce)
        cnonce := chachaNonce s.xnonce
        w := Vector.replicate 16 0
        rnd := 0
        ctr := if s.opc = 0x01 ∧ 0 < s.dlen.toNat then 1 else 0 }
      phase := Phase.blkLoad }

/-- R192, R203: from every idle state with a legal descriptor, START with ENCRYPT and then the steps R203 counts end in
exactly the state R192 gives. -/
def Obligations.EncryptRun : Prop :=
  ∀ (s : State) (r : BitVec 24), s.Ready → s.operandsLegal → s.script = [] →
    let ct := xchacha20Xor s.key s.xnonce s.dataBytes
    let otk := xchacha20PolyKey s.key s.xnonce
    runSteps (1 + commandSteps s) { s with script := [.wr 0x00 (r ++ (0x01 : Byte))] } = .next { s with
      opc := 0x01
      dbuf := s.dbuf.writeBytes 0 ct
      tag := poly1305Mac otk (macInput s.aadBytes ct)
      status := { busy := false, done := true, err := 0, errInfo := 0 }
      key := Vector.replicate 32 0
      phase := Phase.idle }

/-- R193, R203: the same of DECRYPT when the tag the host supplied is the computed one. -/
def Obligations.DecryptRun : Prop :=
  ∀ (s : State) (r : BitVec 24), s.Ready → s.operandsLegal → s.script = [] →
    s.tag = poly1305Mac (xchacha20PolyKey s.key s.xnonce) (macInput s.aadBytes s.dataBytes) →
    runSteps (1 + commandSteps s) { s with script := [.wr 0x00 (r ++ (0x02 : Byte))] } = .next { s with
      opc := 0x02
      dbuf := s.dbuf.writeBytes 0 (xchacha20Xor s.key s.xnonce s.dataBytes)
      status := { busy := false, done := true, err := 0, errInfo := 0 }
      key := Vector.replicate 32 0
      phase := Phase.idle }

/-- R233, with the step count R203 derives: a DECRYPT whose computed tag differs from TAG ends with ERR = 1, the data
zero and TAG as the host wrote it; the entry from TAG_CMP, step by step; and only DECRYPT's TAG_CMP raises the error. -/
def Obligations.AuthenticationFailure : Prop :=
  (∀ (s : State) (r : BitVec 24), s.Ready → s.operandsLegal → s.script = [] →
    s.tag ≠ poly1305Mac (xchacha20PolyKey s.key s.xnonce) (macInput s.aadBytes s.dataBytes) →
    ∃ t, runSteps (1 + failedSteps s) { s with script := [.wr 0x00 (r ++ (0x02 : Byte))] } = .next t ∧
      (∀ a : Nat, a < s.dlen.toNat → t.dbuf.read a = 0) ∧
      (∀ a : Nat, s.dlen.toNat ≤ a → t.dbuf.read a = s.dbuf.read a) ∧
      t = { s with
        opc := 0x02
        dbuf := t.dbuf
        status := { busy := false, done := true, err := 1, errInfo := 0 }
        key := Vector.replicate 32 0
        phase := Phase.idle }) ∧
  (∀ s : State, s.Inv → s.script = [] → s.phase = Phase.tagCmp → s.scr.ctag ≠ s.tag →
    ∃ t u v, step s = .next t ∧ t.status = { s.status with err := 1 } ∧ t.phase = Phase.failErase ∧
      t.dbuf = s.dbuf ∧ step t = .next u ∧ (∀ a : Nat, a < s.dlen.toNat → u.dbuf.read a = 0) ∧
      u.phase = Phase.wipe ∧ step u = .next v ∧ v.scr = Scratch.zero ∧ v.key = Vector.replicate 32 0 ∧
      v.status = { busy := false, done := true, err := 1, errInfo := 0 }) ∧
  (∀ s t : State, s.Inv → step s = .next t → t.status.err = 1 → s.status.err ≠ 1 →
    s.phase = Phase.tagCmp ∧ s.opc = 0x02)

/-- R204 (a): ENCRYPT, then KEY rewritten by the host's eight word writes (R89) and DECRYPT with the tag produced,
restores the data with ERR = 0. -/
def Obligations.RoundTrip : Prop :=
  ∀ (s : State) (r r' : BitVec 24), s.Ready → s.operandsLegal → s.script = [] →
    ∃ e d : State,
      runSteps (1 + commandSteps s) { s with script := [.wr 0x00 (r ++ (0x01 : Byte))] } = .next e ∧
      runSteps (9 + commandSteps s)
        { e with script := wrk s.key ++ [.wr 0x00 (r' ++ (0x02 : Byte))] } = .next d ∧
      d.dbuf = s.dbuf ∧ d.status = { busy := false, done := true, err := 0, errInfo := 0 }

/-- R89, R90: the host notation as moves (log entry 3). The array writes `wrk`, `wrn`, `wrt` while idle; `wait`, which
ends by reading STATUS once DONE = 1; and the two pseudo-instructions whole, from any idle state of the invariant whose
buffers hold the operands: descriptor, start, the steps R203 counts, `wait`. -/
def Obligations.HostScripts : Prop :=
  (∀ (s : State) (rest : List HostMove), s.PhaseNamed → s.status.busy = false →
    (∀ key : Vector Byte 32, runSteps 8 { s with script := wrk key ++ rest } = .next { s with key := key, script := rest }) ∧
    (∀ xn : Vector Byte 24, runSteps 6 { s with script := wrn xn ++ rest } =
      .next { s with xnonce := xn, script := rest }) ∧
    (∀ tag : Vector Byte 16, runSteps 4 { s with script := wrt tag ++ rest } =
      .next { s with tag := tag, script := rest })) ∧
  (∀ (s : State) (rest : List HostMove), s.PhaseNamed → s.status.done = true → ∃ v : Word,
    step { s with script := .wait :: rest } = .next { s with script := rest, hostData := .word v } ∧ s.ReadsAs 0x04 v) ∧
  (∀ (s : State) (key : Vector Byte 32) (xn : Vector Byte 24) (aad data : List Byte), s.Ready →
    aad.length < 2 ^ 64 → aad.length ≤ s.params.abufCap → data.length ≤ s.params.dbufCap →
    data.length ≤ (2 ^ 32 - 1) * 64 →
    let otk := xchacha20PolyKey key xn
    let macs := (aad.length + 15) / 16 + (data.length + 15) / 16
    let written := { s with
      sizes := { klen := 32, nlen := 24, tlen := 16 }
      alen := BitVec.ofNat 64 aad.length
      dlen := BitVec.ofNat 64 data.length
      key := Vector.replicate 32 0
      xnonce := xn
      abuf := s.abuf.writeBytes 0 aad
      script := [] }
    let out := xchacha20Xor key xn data
    runSteps (74 + 23 * ((data.length + 63) / 64) + macs) { s with script := encryptScript key xn aad data } =
      .next { written with
        opc := 0x01
        status := { busy := false, done := true, err := 0, errInfo := 0 }
        tag := poly1305Mac otk (macInput aad out)
        dbuf := s.dbuf.writeBytes 0 out
        hostData := .word 0x00000002 } ∧
    ∀ tag : Vector Byte 16,
      (tag = poly1305Mac otk (macInput aad data) →
        runSteps (78 + 23 * ((data.length + 63) / 64) + macs) { s with script := decryptScript key xn aad data tag } =
          .next { written with
            opc := 0x02
            status := { busy := false, done := true, err := 0, errInfo := 0 }
            tag := tag
            dbuf := s.dbuf.writeBytes 0 out
            hostData := .word 0x00000002 }) ∧
      (tag ≠ poly1305Mac otk (macInput aad data) →
        runSteps (79 + macs) { s with script := decryptScript key xn aad data tag } =
          .next { written with
            opc := 0x02
            status := { busy := false, done := true, err := 1, errInfo := 0 }
            tag := tag
            dbuf := s.dbuf.writeBytes 0 (List.replicate data.length 0)
            hostData := .word 0x00000006 }))

end Statements
end

