-- ==== Sys2Proof/Laws/Bytes.lean ====
section
/-! SUPPORT. The laws of byte order: assembly and serialization undo each other, and their ranges. -/

namespace Sys2Proof.Machine

/-- Reading back the bytes of a word (R63 (a)). -/
theorem le32_wordByte (w : Word) : le32 (wordByte w 0) (wordByte w 1) (wordByte w 2) (wordByte w 3) = w := by
  apply BitVec.eq_of_getLsbD_eq
  intro i hi
  simp only [le32, wordByte, BitVec.getLsbD_append, BitVec.getLsbD_extractLsb']
  rcases Nat.lt_or_ge i 8 with h | h
  · simp [h]
  · rcases Nat.lt_or_ge i 16 with h2 | h2
    · simp [show ¬ i < 8 by omega, show i - 8 < 8 by omega, show 8 + (i - 8) = i by omega]
    · rcases Nat.lt_or_ge i 24 with h3 | h3
      · simp [show ¬ i < 8 by omega, show ¬ i - 8 < 8 by omega, show i - 8 - 8 < 8 by omega,
          show 16 + (i - 8 - 8) = i by omega]
      · simp [show ¬ i < 8 by omega, show ¬ i - 8 < 8 by omega, show ¬ i - 8 - 8 < 8 by omega,
          show i - 8 - 8 - 8 < 8 by omega, show 24 + (i - 8 - 8 - 8) = i by omega]

/-- A byte string's number is below `256 ^ length` (R10). -/
theorem leInt_lt (l : List Byte) : leInt l < 256 ^ l.length := by
  induction l with
  | nil => simp [leInt]
  | cons b l ih =>
    have := b.isLt
    simp only [leInt, List.length_cons, pow_succ]
    omega

/-- The number of a concatenation (R10). -/
theorem leInt_append (xs ys : List Byte) : leInt (xs ++ ys) = leInt xs + 256 ^ xs.length * leInt ys := by
  induction xs with
  | nil => simp [leInt]
  | cons b xs ih =>
    simp only [List.cons_append, leInt, ih, List.length_cons, pow_succ]
    ring

@[simp] theorem leInt_zeros (n : Nat) : leInt (List.replicate n 0) = 0 := by
  induction n with
  | zero => rfl
  | succ n ih => rw [List.replicate_succ, leInt, ih]; rfl

/-- Zero bytes above the last one change no number: padding keeps the value (R194). -/
theorem leInt_append_zeros (xs : List Byte) (n : Nat) : leInt (xs ++ List.replicate n 0) = leInt xs := by
  rw [leInt_append, leInt_zeros, Nat.mul_zero, Nat.add_zero]

@[simp] theorem getElem_serialize16 (w : CipherState) (i : Nat) (h : i < 64) :
    (serialize16 w)[i] = wordByte w[i / 4] (i % 4) := by simp [serialize16]

@[simp] theorem getElem_serialize8 (w : Vector Word 8) (i : Nat) (h : i < 32) :
    (serialize8 w)[i] = wordByte w[i / 4] (i % 4) := by simp [serialize8]

@[simp] theorem getElem_leBytes (n v i : Nat) (h : i < n) :
    (leBytes n v)[i] = BitVec.ofNat 8 (v / 256 ^ i) := by simp [leBytes]

/-- A full block's value (R172, R177): `LEint(blk) + 2^128`. -/
theorem blockVal_full (blk : Vector Byte 16) : blockVal blk.toList = leInt blk.toList + tagModulus := by
  rw [blockVal, Vector.length_toList]
  rfl

/-- The absorbed accumulator is a canonical residue (R173, R179). -/
theorem absorb_lt (acc r v : Nat) : absorb acc r v < polyP := Nat.mod_lt _ (by decide)

/-- The multiplier is clamped (R171). -/
theorem macR_clamped (otk : Vector Byte 32) : macR otk &&& clampMask = macR otk := by
  simp [macR]

/-- The additive term has 128 bits (R170). -/
theorem macS_lt (otk : Vector Byte 32) : macS otk < tagModulus := by
  have h := leInt_lt (otk.toList.drop 16)
  have hl : (otk.toList.drop 16).length = 16 := by simp
  rw [hl] at h
  exact Nat.lt_of_lt_of_le h (by norm_num [tagModulus])

end Sys2Proof.Machine
end

