-- ==== Sys2Proof/Laws/Memory.lean ====
section
/-! SUPPORT. The laws of a buffer: read after write, canonical form kept, equal reads make equal buffers. -/

namespace Sys2Proof.Machine.Memory

theorem wf_nil : Memory.wf [] := ⟨List.Pairwise.nil, by simp⟩

/-- The tail of a canonical buffer is canonical, and its offsets lie above the head's. -/
theorem wf_cons {c : Host.Cell} {m : Memory} (h : Memory.wf (c :: m)) :
    (∀ d ∈ m, c.1 < d.1) ∧ c.2 ≠ unwritten ∧ Memory.wf m := by
  obtain ⟨h1, h2⟩ := h
  rw [List.pairwise_cons] at h1
  exact ⟨h1.1, h2 c (by simp), h1.2, fun d hd => h2 d (by simp [hd])⟩

theorem wf_cons_of {c : Host.Cell} {m : Memory} (h1 : ∀ d ∈ m, c.1 < d.1) (h2 : c.2 ≠ unwritten) (h3 : Memory.wf m) :
    Memory.wf (c :: m) :=
  ⟨List.pairwise_cons.2 ⟨h1, h3.1⟩, by
    intro d hd
    rcases List.mem_cons.1 hd with rfl | hd
    · exact h2
    · exact h3.2 d hd⟩

/-- A write adds no cell but its own. -/
theorem mem_write {m : Memory} {a : Nat} {b : Byte} {c : Host.Cell} (hc : c ∈ m.write a b) :
    c ∈ m ∨ (c.1 = a ∧ c.2 = b) := by
  induction m with
  | nil =>
    simp only [write] at hc
    split at hc
    · exact absurd hc (by simp)
    · exact .inr (by simp_all)
  | cons d m ih =>
    obtain ⟨k, v⟩ := d
    simp only [write] at hc
    split at hc
    · split at hc
      · exact .inl hc
      · rcases List.mem_cons.1 hc with rfl | h
        · exact .inr ⟨rfl, rfl⟩
        · exact .inl h
    · split at hc
      · split at hc
        · exact .inl (List.mem_cons_of_mem _ hc)
        · rcases List.mem_cons.1 hc with rfl | h
          · exact .inr ⟨by simp_all, rfl⟩
          · exact .inl (List.mem_cons_of_mem _ h)
      · rcases List.mem_cons.1 hc with rfl | h
        · exact .inl (by simp)
        · exact (ih h).imp (List.mem_cons_of_mem _) id

/-- A write keeps the canonical form. -/
theorem write_wf {m : Memory} (h : m.wf) (a : Nat) (b : Byte) : (m.write a b).wf := by
  induction m with
  | nil =>
    simp only [write]
    split
    · exact wf_nil
    · exact wf_cons_of (by simp) (by assumption) wf_nil
  | cons d m ih =>
    obtain ⟨k, v⟩ := d
    obtain ⟨h1, h2, h3⟩ := wf_cons h
    simp only [write]
    split
    · split
      · exact h
      · refine wf_cons_of ?_ (by assumption) h
        intro d hd
        rcases List.mem_cons.1 hd with rfl | hd
        · assumption
        · exact Nat.lt_trans (by assumption) (h1 d hd)
    · split
      · split
        · exact h3
        · exact wf_cons_of h1 (by assumption) h3
      · refine wf_cons_of ?_ h2 (ih h3)
        intro d hd
        rcases mem_write hd with hd | hd
        · exact h1 d hd
        · show k < d.1
          omega

theorem write_within {m : Memory} {cap : Nat} (h : m.within cap) {a : Nat} (ha : a < cap) (b : Byte) :
    (m.write a b).within cap := by
  intro c hc
  rcases mem_write hc with hc | hc
  · exact h c hc
  · omega

/-- An offset below every listed one reads as unwritten. -/
theorem read_below {m : Memory} {a : Nat} (h : ∀ d ∈ m, a < d.1) : m.read a = unwritten := by
  induction m with
  | nil => rfl
  | cons d m ih =>
    have hd := h d (by simp)
    simp only [read]
    rw [if_neg (by omega)]
    exact ih fun e he => h e (by simp [he])

/-- Read after write, the same offset. -/
theorem read_write_same {m : Memory} (h : m.wf) (a : Nat) (b : Byte) : (m.write a b).read a = b := by
  induction m with
  | nil =>
    simp only [write]
    split
    · simp_all [read]
    · simp [read]
  | cons d m ih =>
    obtain ⟨k, v⟩ := d
    obtain ⟨h1, -, h3⟩ := wf_cons h
    simp only [write]
    split
    · next hak =>
      split
      · next hb =>
        rw [hb]
        refine read_below ?_
        intro d hd
        rcases List.mem_cons.1 hd with rfl | hd
        · exact hak
        · exact Nat.lt_trans hak (h1 d hd)
      · simp [read]
    · split
      · next hak =>
        split
        · next hb =>
          rw [hb]
          exact read_below fun d hd => by have := h1 d hd; simp_all
        · simp [read, hak]
      · next hak => simp only [read]; rw [if_neg (fun h => hak h.symm)]; exact ih h3

/-- Read after write, another offset. -/
theorem read_write_other (m : Memory) {a x : Nat} (hx : x ≠ a) (b : Byte) : (m.write a b).read x = m.read x := by
  induction m with
  | nil =>
    simp only [write]
    split
    · rfl
    · simp only [read]; rw [if_neg (fun h => hx h.symm)]
  | cons d m ih =>
    obtain ⟨k, v⟩ := d
    simp only [write]
    split
    · split
      · rfl
      · rw [read, if_neg (fun h => hx h.symm)]
    · split
      · next hak =>
        split
        · rw [read, if_neg (by omega)]
        · rw [read, read, if_neg (by omega), if_neg (by omega)]
      · simp only [read, ih]

theorem writeBytes_nil (m : Memory) (off : Nat) : m.writeBytes off [] = m := rfl

theorem writeBytes_cons (m : Memory) (off : Nat) (b : Byte) (bs : List Byte) :
    m.writeBytes off (b :: bs) = (m.write off b).writeBytes (off + 1) bs := rfl

/-- Writing two byte strings one after the other is writing their concatenation. -/
theorem writeBytes_append (xs ys : List Byte) (m : Memory) (off : Nat) :
    m.writeBytes off (xs ++ ys) = (m.writeBytes off xs).writeBytes (off + xs.length) ys := by
  induction xs generalizing m off with
  | nil => rfl
  | cons b xs ih =>
    rw [List.cons_append, writeBytes_cons, writeBytes_cons, ih, List.length_cons]
    congr 1
    omega

/-- `MemWrite` keeps the canonical form. -/
theorem writeBytes_wf (bs : List Byte) {m : Memory} (h : m.wf) (off : Nat) : (m.writeBytes off bs).wf := by
  induction bs generalizing m off with
  | nil => exact h
  | cons b bs ih => exact ih (write_wf h off b) (off + 1)

theorem writeBytes_within (bs : List Byte) {m : Memory} {cap : Nat} (h : m.within cap) {off : Nat}
    (hl : off + bs.length ≤ cap) : (m.writeBytes off bs).within cap := by
  induction bs generalizing m off with
  | nil => exact h
  | cons b bs ih =>
    rw [List.length_cons] at hl
    exact ih (write_within h (by omega) b) (by omega)

/-- An offset outside the bytes written reads as before (R67). -/
theorem read_writeBytes_outside (bs : List Byte) (m : Memory) {off x : Nat} (hx : x < off ∨ off + bs.length ≤ x) :
    (m.writeBytes off bs).read x = m.read x := by
  induction bs generalizing m off with
  | nil => rfl
  | cons b bs ih =>
    rw [List.length_cons] at hx
    rw [writeBytes_cons, ih _ (by omega), read_write_other _ (by omega)]

/-- An offset inside the bytes written reads the byte written (R67). -/
theorem read_writeBytes_inside (bs : List Byte) {m : Memory} (h : m.wf) (off : Nat) {t : Nat} (ht : t < bs.length) :
    (m.writeBytes off bs).read (off + t) = bs[t] := by
  induction bs generalizing m off t with
  | nil => exact absurd ht (by simp)
  | cons b bs ih =>
    rw [writeBytes_cons]
    cases t with
    | zero =>
      rw [read_writeBytes_outside _ _ (by omega)]
      exact read_write_same h off b
    | succ t =>
      rw [List.length_cons] at ht
      have := ih (write_wf h off b) (off + 1) (t := t) (by omega)
      rw [show off + (t + 1) = off + 1 + t by omega, this]
      rfl

/-- A buffer lists an offset at or above the capacity nowhere, so it reads as unwritten there. -/
theorem read_outside {m : Memory} {cap a : Nat} (h : m.within cap) (ha : cap ≤ a) : m.read a = unwritten := by
  induction m with
  | nil => rfl
  | cons d m ih =>
    have hd := h d (by simp)
    simp only [read]
    rw [if_neg (by omega)]
    exact ih fun e he => h e (by simp [he])

/-- Canonical buffers that read the same everywhere are equal. -/
theorem ext_read {m n : Memory} (hm : m.wf) (hn : n.wf) (h : ∀ a, m.read a = n.read a) : m = n := by
  induction m generalizing n with
  | nil =>
    cases n with
    | nil => rfl
    | cons d n =>
      have := h d.1
      simp only [read, if_true] at this
      exact absurd this.symm (wf_cons hn).2.1
  | cons c m ih =>
    obtain ⟨c1, c2, c3⟩ := wf_cons hm
    cases n with
    | nil =>
      have := h c.1
      simp only [read, if_true] at this
      exact absurd this c2
    | cons d n =>
      obtain ⟨d1, d2, d3⟩ := wf_cons hn
      have hk : c.1 = d.1 := by
        by_contra hne
        rcases Nat.lt_or_gt_of_ne hne with hlt | hlt
        · have := h c.1
          simp only [read, if_true] at this
          rw [if_neg (by omega), read_below fun e he => Nat.lt_trans hlt (d1 e he)] at this
          exact c2 this
        · have := h d.1
          simp only [read, if_true] at this
          rw [if_neg (by omega), read_below fun e he => Nat.lt_trans hlt (c1 e he)] at this
          exact d2 this.symm
      have hv : c.2 = d.2 := by
        have := h c.1
        simp only [read, if_true] at this
        rw [if_pos hk.symm] at this
        exact this
      have hcd : c = d := Prod.ext hk hv
      subst hcd
      refine congrArg _ (ih c3 d3 fun a => ?_)
      have := h a
      simp only [read] at this
      by_cases ha : c.1 = a
      · subst ha
        rw [read_below c1, read_below d1]
      · rwa [if_neg ha, if_neg ha] at this

@[simp] theorem length_readBytes (m : Memory) (off n : Nat) : (m.readBytes off n).length = n := by
  simp [readBytes]

@[simp] theorem getElem_readBytes (m : Memory) (off n : Nat) {t : Nat} (ht : t < (m.readBytes off n).length) :
    (m.readBytes off n)[t] = m.read (off + t) := by
  simp [readBytes]

/-- Bytes outside those written are read as before. -/
theorem readBytes_writeBytes_outside (m : Memory) {off x n : Nat} {bs : List Byte}
    (h : x + n ≤ off ∨ off + bs.length ≤ x) : (m.writeBytes off bs).readBytes x n = m.readBytes x n := by
  refine List.ext_getElem (by simp) fun t h1 h2 => ?_
  rw [length_readBytes] at h1
  simp only [getElem_readBytes]
  exact read_writeBytes_outside _ _ (by omega)

/-- The bytes written are read back. -/
theorem readBytes_writeBytes_same {m : Memory} (h : m.wf) (off : Nat) (bs : List Byte) :
    (m.writeBytes off bs).readBytes off bs.length = bs := by
  refine List.ext_getElem (by simp) fun t h1 h2 => ?_
  rw [getElem_readBytes, read_writeBytes_inside bs h off h2]

/-- A longer run of bytes is a shorter one and the rest. -/
theorem readBytes_append (m : Memory) (off n k : Nat) :
    m.readBytes off (n + k) = m.readBytes off n ++ m.readBytes (off + n) k := by
  refine List.ext_getElem (by simp) fun t h1 h2 => ?_
  rw [getElem_readBytes, List.getElem_append]
  split
  · rw [getElem_readBytes]
  · rename_i h
    rw [length_readBytes] at h
    rw [getElem_readBytes, length_readBytes]
    congr 1
    omega

theorem fill_wf (cap : Nat) (f : Nat → Byte) : (Memory.fill cap f).wf := writeBytes_wf _ wf_nil 0

theorem fill_within (cap : Nat) (f : Nat → Byte) : (Memory.fill cap f).within cap :=
  writeBytes_within _ (fun _ h => absurd h (by simp)) (by simp)

/-- A filled buffer reads the rule at every offset that exists. -/
theorem read_fill {cap a : Nat} (f : Nat → Byte) (ha : a < cap) : (Memory.fill cap f).read a = f a := by
  have := read_writeBytes_inside ((List.range cap).map f) wf_nil 0 (t := a) (by simpa using ha)
  rw [Nat.zero_add] at this
  rw [fill, this]
  simp

end Sys2Proof.Machine.Memory
end

