-- ==== Sys2Proof/Laws/Ops.lean ====
section
/-! SUPPORT. One lemma per shared operation: everything it can do, for the proofs to cite instead of unfolding it. -/

namespace Sys2Proof.Machine

/-- What MemRead answers (R66). -/
theorem memRead_cases {sp : BufSpace} {off n : Nat} {s : State} {r : Except Fault (List Byte)}
    (h : memRead sp off n s = r) :
    (off + n ≤ s.cap sp ∧ r = .ok ((s.buf sp).readBytes off n)) ∨
      (s.cap sp < off + n ∧ r = .error .outsideBuffer) := by
  unfold memRead at h
  split at h
  · exact .inl ⟨by assumption, h.symm⟩
  · exact .inr ⟨by omega, h.symm⟩

theorem memRead_ok {sp : BufSpace} {off n : Nat} {s : State} (h : off + n ≤ s.cap sp) :
    memRead sp off n s = .ok ((s.buf sp).readBytes off n) := if_pos h

/-- What MemWrite answers (R67). -/
theorem memWrite_cases {sp : BufSpace} {off : Nat} {v : List Byte} {s : State} {r : Except Fault State}
    (h : memWrite sp off v s = r) :
    (off + v.length ≤ s.cap sp ∧ r = .ok (s.setBuf sp ((s.buf sp).writeBytes off v))) ∨
      (s.cap sp < off + v.length ∧ r = .error .outsideBuffer) := by
  unfold memWrite at h
  split at h
  · exact .inl ⟨by assumption, h.symm⟩
  · exact .inr ⟨by omega, h.symm⟩

theorem memWrite_ok {sp : BufSpace} {off : Nat} {v : List Byte} {s : State} (h : off + v.length ≤ s.cap sp) :
    memWrite sp off v s = .ok (s.setBuf sp ((s.buf sp).writeBytes off v)) := if_pos h

/-- The two outcomes of a round phase (R107, R123, R142). -/
theorem roundPhase_cases (after : BitVec 5) (s : State) :
    (s.scr.rnd = 19 ∧ roundPhase after s =
      { s with scr := { s.scr with w := roundAt s.scr.rnd s.scr.w, rnd := 20 }, phase := after }) ∨
    (s.scr.rnd ≠ 19 ∧ roundPhase after s =
      { s with scr := { s.scr with w := roundAt s.scr.rnd s.scr.w, rnd := s.scr.rnd + 1 } }) := by
  unfold roundPhase Scratch.roundStep
  by_cases h : s.scr.rnd = 19
  · exact .inl ⟨h, by rw [h]; rfl⟩
  · refine .inr ⟨h, if_neg ?_⟩
    bv_omega

/-- An absorbed accumulator is a canonical residue (R173, R177). -/
theorem absorbed_lt (c : Scratch) (blk : Vector Byte 16) : c.absorbed blk < polyP := absorb_lt _ _ _

/-- Starting a command while the core is idle (R190). -/
theorem startCommand_idle (v : Word) {s : State} (h : s.status.busy = false) :
    startCommand v s = { s with opc := cmdOpc v,
                                status := { busy := true, done := false, err := 0, errInfo := 0 },
                                phase := Phase.check } := by
  simp [startCommand, h]

/-- A start while BUSY = 1 is ignored (R190). -/
theorem startCommand_busy (v : Word) {s : State} (h : s.status.busy = true) : startCommand v s = s := by
  simp [startCommand, h]

theorem cmdOpc_append (r : BitVec 24) (o : Byte) : cmdOpc (r ++ o) = o := by
  apply BitVec.eq_of_getLsbD_eq
  intro i hi
  rw [cmdOpc, BitVec.getLsbD_extractLsb', Nat.zero_add]
  exact (congrArg₂ and (decide_eq_true hi) (BitVec.getLsbD_append (x := r) (y := o))).trans (by simp [hi])

theorem cmdReserved_append (r : BitVec 24) (o : Byte) : cmdReserved (r ++ o) = r := by
  apply BitVec.eq_of_getLsbD_eq
  intro i hi
  have h : ¬ 8 + i < 8 := by omega
  rw [cmdReserved, BitVec.getLsbD_extractLsb']
  exact (congrArg₂ and (decide_eq_true hi) (BitVec.getLsbD_append (x := r) (y := o))).trans (by simp [h])

theorem cmd_split (w : Word) : cmdReserved w ++ cmdOpc w = w := by
  apply BitVec.eq_of_getLsbD_eq
  intro i hi
  simp only [cmdReserved, cmdOpc, BitVec.getLsbD_append, BitVec.getLsbD_extractLsb']
  rcases Nat.lt_or_ge i 8 with h | h
  · simp [h]
  · simp [show ¬ i < 8 by omega, show i - 8 < 24 by omega, show 8 + (i - 8) = i by omega]

/-- The contract tests all pass exactly when the descriptor is legal (R191, R234). -/
theorem contractFailure_none_iff (s : State) :
    contractFailure s = none ↔
      (s.opc = opcEncrypt ∨ s.opc = opcDecrypt) ∧ s.sizes.klen = keySize ∧ s.sizes.nlen = xnonceSize ∧
      s.sizes.tlen = tagSize ∧ s.alen.toNat ≤ s.params.abufCap ∧ s.dlen.toNat ≤ s.params.dbufCap ∧
      s.dlen.toNat ≤ ctrMaxDlen := by
  unfold contractFailure
  split_ifs with h1 h2 h3 h4 h5 h6 <;> simp only [false_iff, true_iff]
  · exact fun h => h.1.elim h1.1 h1.2
  · exact fun h => h2 h.2.1
  · exact fun h => h3 h.2.2.1
  · exact fun h => h4 h.2.2.2.1
  · exact fun h => absurd h.2.2.2.2.1 (by omega)
  · exact fun h => h6.elim (fun g => absurd h.2.2.2.2.2.1 (by omega)) (fun g => absurd h.2.2.2.2.2.2 (by omega))
  · refine ⟨?_, not_not.1 h2, not_not.1 h3, not_not.1 h4, by omega, by omega, by omega⟩
    by_contra hc
    exact h1 ⟨fun e => hc (.inl e), fun e => hc (.inr e)⟩

/-- A failing contract test has a number from 1 to 6 (R234). -/
theorem contractFailure_range {s : State} {i : BitVec 4} (h : contractFailure s = some i) :
    1 ≤ i.toNat ∧ i.toNat ≤ 6 := by
  unfold contractFailure at h
  split_ifs at h <;> simp at h <;> subst h <;> decide

theorem or_eq_zero {x y : Byte} (h : x ||| y = 0) : x = 0 ∧ y = 0 := by
  constructor <;>
  · apply BitVec.eq_of_getLsbD_eq
    intro i hi
    have := congrArg (fun z => z.getLsbD i) h
    simp only [BitVec.getLsbD_or, BitVec.ofNat_eq_ofNat, BitVec.getLsbD_zero, Bool.or_eq_false_iff] at this
    simp [this.1, this.2]

theorem foldl_or_eq_zero {l : List Byte} {x : Byte} : l.foldl (· ||| ·) x = 0 ↔ x = 0 ∧ ∀ y ∈ l, y = 0 := by
  induction l generalizing x with
  | nil => simp
  | cons y l ih =>
    rw [List.foldl_cons, ih]
    constructor
    · rintro ⟨h, hl⟩
      have := or_eq_zero h
      refine ⟨this.1, fun z hz => ?_⟩
      rcases List.mem_cons.1 hz with rfl | hz
      · exact this.2
      · exact hl z hz
    · rintro ⟨h, hl⟩
      refine ⟨?_, fun z hz => hl z (by simp [hz])⟩
      rw [h, hl y (by simp)]
      rfl

/-- DIFF is zero exactly when the sixteen pairs are equal (R29, R200). -/
theorem tagDiff_eq_zero_iff (a b : Vector Byte 16) : tagDiff a b = 0 ↔ a = b := by
  unfold tagDiff
  rw [foldl_or_eq_zero]
  constructor
  · rintro ⟨-, h⟩
    apply Vector.ext
    intro i hi
    have : a[i] ^^^ b[i] = 0 :=
      h _ (List.mem_iff_getElem.2 ⟨i, by simpa using hi, by simp⟩)
    simpa using this
  · rintro rfl
    refine ⟨rfl, fun y hy => ?_⟩
    obtain ⟨i, hi, rfl⟩ := List.mem_iff_getElem.1 hy
    rw [List.getElem_zipWith, BitVec.xor_self]
    rfl

/-- What fetch gives a state whose script is empty: the core's turn. -/
theorem fetch_nil {s : State} (h : s.script = []) : fetch s = coreFetch s := by
  simp [fetch, h]

/-- A step with no host move pending is a step of the core (R20). -/
theorem step_nil {s : State} (h : s.script = []) :
    step s = match coreFetch s with | .run i t => exec i t | .done o => o :=
  congrArg (fun f => match f with | .run i t => exec i t | .done o => o) (fetch_nil h)

/-- A code above 18 is exactly one the decoder rejects (R86, R87). -/
theorem decodePhase_none_iff (c : BitVec 5) : (decodePhase c).toOption = none ↔ 18 < c.toNat := by
  revert c
  decide

/-- The core's turn (R20, R26, R28, R87). -/
theorem coreFetch_cases (s : State) :
    (s.status.busy = false ∧ s.phase.toNat ≤ 18 ∧ coreFetch s = .run .idle s) ∨
    (s.status.busy = true ∧ ∃ i, decodePhase s.phase = .ok i ∧ coreFetch s = .run i s) ∨
    (18 < s.phase.toNat ∧ coreFetch s = .done (.fault .reservedPhase)) := by
  have hn := decodePhase_none_iff s.phase
  unfold coreFetch
  cases hd : decodePhase s.phase with
  | error e => exact .inr (.inr ⟨hn.1 (by rw [hd]; rfl), rfl⟩)
  | ok i =>
    have hle : s.phase.toNat ≤ 18 := Nat.le_of_not_lt fun h => by simpa [hd, Except.toOption] using hn.2 h
    cases hb : s.status.busy with
    | false => exact .inl ⟨rfl, hle, by simp⟩
    | true => exact .inr (.inl ⟨rfl, i, rfl, by simp⟩)

/-- A host move with a phase the core has (R86), or the reset input (R260), is made. -/
theorem fetch_move {s : State} {m : HostMove} {rest : List HostMove} (h : s.script = m :: rest)
    (hp : s.phase.toNat ≤ 18 ∨ m = .reset) : fetch s = moveFetch m rest s := by
  unfold fetch
  rw [h]
  exact if_neg fun hc => hp.elim (fun h => absurd hc.1 (Nat.not_lt.2 h)) hc.2

/-- A stuck state (R87, U11): every move but the reset input faults. -/
theorem fetch_stuck {s : State} {m : HostMove} {rest : List HostMove} (h : s.script = m :: rest)
    (hp : 18 < s.phase.toNat) (hm : m ≠ .reset) : fetch s = .done (.fault .reservedPhase) := by
  unfold fetch
  rw [h]
  exact if_pos ⟨hp, hm⟩

end Sys2Proof.Machine
end

