-- ==== Sys2Proof/Laws/State.lean ====
section
/-! SUPPORT. One lemma per field per named update of the state, true by rfl, so that no proof unfolds a record
update. -/

namespace Sys2Proof.Machine

@[simp] theorem setPhase_opc (s : State) (p : BitVec 5) : (s.setPhase p).opc = s.opc := rfl
@[simp] theorem setPhase_status (s : State) (p : BitVec 5) : (s.setPhase p).status = s.status := rfl
@[simp] theorem setPhase_sizes (s : State) (p : BitVec 5) : (s.setPhase p).sizes = s.sizes := rfl
@[simp] theorem setPhase_alen (s : State) (p : BitVec 5) : (s.setPhase p).alen = s.alen := rfl
@[simp] theorem setPhase_dlen (s : State) (p : BitVec 5) : (s.setPhase p).dlen = s.dlen := rfl
@[simp] theorem setPhase_key (s : State) (p : BitVec 5) : (s.setPhase p).key = s.key := rfl
@[simp] theorem setPhase_xnonce (s : State) (p : BitVec 5) : (s.setPhase p).xnonce = s.xnonce := rfl
@[simp] theorem setPhase_tag (s : State) (p : BitVec 5) : (s.setPhase p).tag = s.tag := rfl
@[simp] theorem setPhase_phase (s : State) (p : BitVec 5) : (s.setPhase p).phase = p := rfl
@[simp] theorem setPhase_scr (s : State) (p : BitVec 5) : (s.setPhase p).scr = s.scr := rfl
@[simp] theorem setPhase_abuf (s : State) (p : BitVec 5) : (s.setPhase p).abuf = s.abuf := rfl
@[simp] theorem setPhase_dbuf (s : State) (p : BitVec 5) : (s.setPhase p).dbuf = s.dbuf := rfl
@[simp] theorem setPhase_params (s : State) (p : BitVec 5) : (s.setPhase p).params = s.params := rfl
@[simp] theorem setPhase_script (s : State) (p : BitVec 5) : (s.setPhase p).script = s.script := rfl
@[simp] theorem setPhase_hostData (s : State) (p : BitVec 5) : (s.setPhase p).hostData = s.hostData := rfl
@[simp] theorem setPhase_fnOut (s : State) (p : BitVec 5) : (s.setPhase p).fnOut = s.fnOut := rfl
@[simp] theorem setPhase_draws (s : State) (p : BitVec 5) : (s.setPhase p).draws = s.draws := rfl

@[simp] theorem setBuf_abuf_opc (s : State) (m : Memory) : (s.setBuf .abuf m).opc = s.opc := rfl
@[simp] theorem setBuf_abuf_status (s : State) (m : Memory) : (s.setBuf .abuf m).status = s.status := rfl
@[simp] theorem setBuf_abuf_sizes (s : State) (m : Memory) : (s.setBuf .abuf m).sizes = s.sizes := rfl
@[simp] theorem setBuf_abuf_alen (s : State) (m : Memory) : (s.setBuf .abuf m).alen = s.alen := rfl
@[simp] theorem setBuf_abuf_dlen (s : State) (m : Memory) : (s.setBuf .abuf m).dlen = s.dlen := rfl
@[simp] theorem setBuf_abuf_key (s : State) (m : Memory) : (s.setBuf .abuf m).key = s.key := rfl
@[simp] theorem setBuf_abuf_xnonce (s : State) (m : Memory) : (s.setBuf .abuf m).xnonce = s.xnonce := rfl
@[simp] theorem setBuf_abuf_tag (s : State) (m : Memory) : (s.setBuf .abuf m).tag = s.tag := rfl
@[simp] theorem setBuf_abuf_phase (s : State) (m : Memory) : (s.setBuf .abuf m).phase = s.phase := rfl
@[simp] theorem setBuf_abuf_scr (s : State) (m : Memory) : (s.setBuf .abuf m).scr = s.scr := rfl
@[simp] theorem setBuf_abuf_abuf (s : State) (m : Memory) : (s.setBuf .abuf m).abuf = m := rfl
@[simp] theorem setBuf_abuf_dbuf (s : State) (m : Memory) : (s.setBuf .abuf m).dbuf = s.dbuf := rfl
@[simp] theorem setBuf_abuf_params (s : State) (m : Memory) : (s.setBuf .abuf m).params = s.params := rfl
@[simp] theorem setBuf_abuf_script (s : State) (m : Memory) : (s.setBuf .abuf m).script = s.script := rfl
@[simp] theorem setBuf_abuf_hostData (s : State) (m : Memory) : (s.setBuf .abuf m).hostData = s.hostData := rfl
@[simp] theorem setBuf_abuf_fnOut (s : State) (m : Memory) : (s.setBuf .abuf m).fnOut = s.fnOut := rfl
@[simp] theorem setBuf_abuf_draws (s : State) (m : Memory) : (s.setBuf .abuf m).draws = s.draws := rfl

@[simp] theorem setBuf_dbuf_opc (s : State) (m : Memory) : (s.setBuf .dbuf m).opc = s.opc := rfl
@[simp] theorem setBuf_dbuf_status (s : State) (m : Memory) : (s.setBuf .dbuf m).status = s.status := rfl
@[simp] theorem setBuf_dbuf_sizes (s : State) (m : Memory) : (s.setBuf .dbuf m).sizes = s.sizes := rfl
@[simp] theorem setBuf_dbuf_alen (s : State) (m : Memory) : (s.setBuf .dbuf m).alen = s.alen := rfl
@[simp] theorem setBuf_dbuf_dlen (s : State) (m : Memory) : (s.setBuf .dbuf m).dlen = s.dlen := rfl
@[simp] theorem setBuf_dbuf_key (s : State) (m : Memory) : (s.setBuf .dbuf m).key = s.key := rfl
@[simp] theorem setBuf_dbuf_xnonce (s : State) (m : Memory) : (s.setBuf .dbuf m).xnonce = s.xnonce := rfl
@[simp] theorem setBuf_dbuf_tag (s : State) (m : Memory) : (s.setBuf .dbuf m).tag = s.tag := rfl
@[simp] theorem setBuf_dbuf_phase (s : State) (m : Memory) : (s.setBuf .dbuf m).phase = s.phase := rfl
@[simp] theorem setBuf_dbuf_scr (s : State) (m : Memory) : (s.setBuf .dbuf m).scr = s.scr := rfl
@[simp] theorem setBuf_dbuf_abuf (s : State) (m : Memory) : (s.setBuf .dbuf m).abuf = s.abuf := rfl
@[simp] theorem setBuf_dbuf_dbuf (s : State) (m : Memory) : (s.setBuf .dbuf m).dbuf = m := rfl
@[simp] theorem setBuf_dbuf_params (s : State) (m : Memory) : (s.setBuf .dbuf m).params = s.params := rfl
@[simp] theorem setBuf_dbuf_script (s : State) (m : Memory) : (s.setBuf .dbuf m).script = s.script := rfl
@[simp] theorem setBuf_dbuf_hostData (s : State) (m : Memory) : (s.setBuf .dbuf m).hostData = s.hostData := rfl
@[simp] theorem setBuf_dbuf_fnOut (s : State) (m : Memory) : (s.setBuf .dbuf m).fnOut = s.fnOut := rfl
@[simp] theorem setBuf_dbuf_draws (s : State) (m : Memory) : (s.setBuf .dbuf m).draws = s.draws := rfl

@[simp] theorem raiseError_opc (s : State) (e : BitVec 2) (i : BitVec 4) (p : BitVec 5) : (raiseError e i p s).opc = s.opc := rfl
@[simp] theorem raiseError_status (s : State) (e : BitVec 2) (i : BitVec 4) (p : BitVec 5) : (raiseError e i p s).status = { s.status with err := e, errInfo := i } := rfl
@[simp] theorem raiseError_sizes (s : State) (e : BitVec 2) (i : BitVec 4) (p : BitVec 5) : (raiseError e i p s).sizes = s.sizes := rfl
@[simp] theorem raiseError_alen (s : State) (e : BitVec 2) (i : BitVec 4) (p : BitVec 5) : (raiseError e i p s).alen = s.alen := rfl
@[simp] theorem raiseError_dlen (s : State) (e : BitVec 2) (i : BitVec 4) (p : BitVec 5) : (raiseError e i p s).dlen = s.dlen := rfl
@[simp] theorem raiseError_key (s : State) (e : BitVec 2) (i : BitVec 4) (p : BitVec 5) : (raiseError e i p s).key = s.key := rfl
@[simp] theorem raiseError_xnonce (s : State) (e : BitVec 2) (i : BitVec 4) (p : BitVec 5) : (raiseError e i p s).xnonce = s.xnonce := rfl
@[simp] theorem raiseError_tag (s : State) (e : BitVec 2) (i : BitVec 4) (p : BitVec 5) : (raiseError e i p s).tag = s.tag := rfl
@[simp] theorem raiseError_phase (s : State) (e : BitVec 2) (i : BitVec 4) (p : BitVec 5) : (raiseError e i p s).phase = p := rfl
@[simp] theorem raiseError_scr (s : State) (e : BitVec 2) (i : BitVec 4) (p : BitVec 5) : (raiseError e i p s).scr = s.scr := rfl
@[simp] theorem raiseError_abuf (s : State) (e : BitVec 2) (i : BitVec 4) (p : BitVec 5) : (raiseError e i p s).abuf = s.abuf := rfl
@[simp] theorem raiseError_dbuf (s : State) (e : BitVec 2) (i : BitVec 4) (p : BitVec 5) : (raiseError e i p s).dbuf = s.dbuf := rfl
@[simp] theorem raiseError_params (s : State) (e : BitVec 2) (i : BitVec 4) (p : BitVec 5) : (raiseError e i p s).params = s.params := rfl
@[simp] theorem raiseError_script (s : State) (e : BitVec 2) (i : BitVec 4) (p : BitVec 5) : (raiseError e i p s).script = s.script := rfl
@[simp] theorem raiseError_hostData (s : State) (e : BitVec 2) (i : BitVec 4) (p : BitVec 5) : (raiseError e i p s).hostData = s.hostData := rfl
@[simp] theorem raiseError_fnOut (s : State) (e : BitVec 2) (i : BitVec 4) (p : BitVec 5) : (raiseError e i p s).fnOut = s.fnOut := rfl
@[simp] theorem raiseError_draws (s : State) (e : BitVec 2) (i : BitVec 4) (p : BitVec 5) : (raiseError e i p s).draws = s.draws := rfl

@[simp] theorem finishCommand_opc (s : State) : (finishCommand s).opc = s.opc := rfl
@[simp] theorem finishCommand_status (s : State) : (finishCommand s).status = { s.status with busy := false, done := true } := rfl
@[simp] theorem finishCommand_sizes (s : State) : (finishCommand s).sizes = s.sizes := rfl
@[simp] theorem finishCommand_alen (s : State) : (finishCommand s).alen = s.alen := rfl
@[simp] theorem finishCommand_dlen (s : State) : (finishCommand s).dlen = s.dlen := rfl
@[simp] theorem finishCommand_key (s : State) : (finishCommand s).key = s.key := rfl
@[simp] theorem finishCommand_xnonce (s : State) : (finishCommand s).xnonce = s.xnonce := rfl
@[simp] theorem finishCommand_tag (s : State) : (finishCommand s).tag = s.tag := rfl
@[simp] theorem finishCommand_phase (s : State) : (finishCommand s).phase = Phase.idle := rfl
@[simp] theorem finishCommand_scr (s : State) : (finishCommand s).scr = s.scr := rfl
@[simp] theorem finishCommand_abuf (s : State) : (finishCommand s).abuf = s.abuf := rfl
@[simp] theorem finishCommand_dbuf (s : State) : (finishCommand s).dbuf = s.dbuf := rfl
@[simp] theorem finishCommand_params (s : State) : (finishCommand s).params = s.params := rfl
@[simp] theorem finishCommand_script (s : State) : (finishCommand s).script = s.script := rfl
@[simp] theorem finishCommand_hostData (s : State) : (finishCommand s).hostData = s.hostData := rfl
@[simp] theorem finishCommand_fnOut (s : State) : (finishCommand s).fnOut = s.fnOut := rfl
@[simp] theorem finishCommand_draws (s : State) : (finishCommand s).draws = s.draws := rfl

@[simp] theorem eraseSensitive_opc (s : State) : (eraseSensitive s).opc = s.opc := rfl
@[simp] theorem eraseSensitive_status (s : State) : (eraseSensitive s).status = s.status := rfl
@[simp] theorem eraseSensitive_sizes (s : State) : (eraseSensitive s).sizes = s.sizes := rfl
@[simp] theorem eraseSensitive_alen (s : State) : (eraseSensitive s).alen = s.alen := rfl
@[simp] theorem eraseSensitive_dlen (s : State) : (eraseSensitive s).dlen = s.dlen := rfl
@[simp] theorem eraseSensitive_key (s : State) : (eraseSensitive s).key = zeroBytes 32 := rfl
@[simp] theorem eraseSensitive_xnonce (s : State) : (eraseSensitive s).xnonce = s.xnonce := rfl
@[simp] theorem eraseSensitive_tag (s : State) : (eraseSensitive s).tag = s.tag := rfl
@[simp] theorem eraseSensitive_phase (s : State) : (eraseSensitive s).phase = s.phase := rfl
@[simp] theorem eraseSensitive_scr (s : State) : (eraseSensitive s).scr = Scratch.zero := rfl
@[simp] theorem eraseSensitive_abuf (s : State) : (eraseSensitive s).abuf = s.abuf := rfl
@[simp] theorem eraseSensitive_dbuf (s : State) : (eraseSensitive s).dbuf = s.dbuf := rfl
@[simp] theorem eraseSensitive_params (s : State) : (eraseSensitive s).params = s.params := rfl
@[simp] theorem eraseSensitive_script (s : State) : (eraseSensitive s).script = s.script := rfl
@[simp] theorem eraseSensitive_hostData (s : State) : (eraseSensitive s).hostData = s.hostData := rfl
@[simp] theorem eraseSensitive_fnOut (s : State) : (eraseSensitive s).fnOut = s.fnOut := rfl
@[simp] theorem eraseSensitive_draws (s : State) : (eraseSensitive s).draws = s.draws := rfl

@[simp] theorem output_opc (s : State) (v : FnOut) : (s.output v).opc = s.opc := rfl
@[simp] theorem output_status (s : State) (v : FnOut) : (s.output v).status = s.status := rfl
@[simp] theorem output_sizes (s : State) (v : FnOut) : (s.output v).sizes = s.sizes := rfl
@[simp] theorem output_alen (s : State) (v : FnOut) : (s.output v).alen = s.alen := rfl
@[simp] theorem output_dlen (s : State) (v : FnOut) : (s.output v).dlen = s.dlen := rfl
@[simp] theorem output_key (s : State) (v : FnOut) : (s.output v).key = s.key := rfl
@[simp] theorem output_xnonce (s : State) (v : FnOut) : (s.output v).xnonce = s.xnonce := rfl
@[simp] theorem output_tag (s : State) (v : FnOut) : (s.output v).tag = s.tag := rfl
@[simp] theorem output_phase (s : State) (v : FnOut) : (s.output v).phase = s.phase := rfl
@[simp] theorem output_scr (s : State) (v : FnOut) : (s.output v).scr = s.scr := rfl
@[simp] theorem output_abuf (s : State) (v : FnOut) : (s.output v).abuf = s.abuf := rfl
@[simp] theorem output_dbuf (s : State) (v : FnOut) : (s.output v).dbuf = s.dbuf := rfl
@[simp] theorem output_params (s : State) (v : FnOut) : (s.output v).params = s.params := rfl
@[simp] theorem output_script (s : State) (v : FnOut) : (s.output v).script = s.script := rfl
@[simp] theorem output_hostData (s : State) (v : FnOut) : (s.output v).hostData = s.hostData := rfl
@[simp] theorem output_fnOut (s : State) (v : FnOut) : (s.output v).fnOut = v := rfl
@[simp] theorem output_draws (s : State) (v : FnOut) : (s.output v).draws = s.draws := rfl

@[simp] theorem resetEvent_opc (s : State) : (resetEvent s).opc = 0 := rfl
@[simp] theorem resetEvent_status (s : State) : (resetEvent s).status = State.reset.status := rfl
@[simp] theorem resetEvent_sizes (s : State) : (resetEvent s).sizes = State.reset.sizes := rfl
@[simp] theorem resetEvent_alen (s : State) : (resetEvent s).alen = 0 := rfl
@[simp] theorem resetEvent_dlen (s : State) : (resetEvent s).dlen = 0 := rfl
@[simp] theorem resetEvent_key (s : State) : (resetEvent s).key = zeroBytes 32 := rfl
@[simp] theorem resetEvent_xnonce (s : State) : (resetEvent s).xnonce = zeroBytes 24 := rfl
@[simp] theorem resetEvent_tag (s : State) : (resetEvent s).tag = zeroBytes 16 := rfl
@[simp] theorem resetEvent_phase (s : State) : (resetEvent s).phase = Phase.idle := rfl
@[simp] theorem resetEvent_scr (s : State) : (resetEvent s).scr = Scratch.zero := rfl
@[simp] theorem resetEvent_abuf (s : State) : (resetEvent s).abuf = Memory.fill s.params.abufCap (Config.freeByte (2 * s.draws)) := rfl
@[simp] theorem resetEvent_dbuf (s : State) : (resetEvent s).dbuf = Memory.fill s.params.dbufCap (Config.freeByte (2 * s.draws + 1)) := rfl
@[simp] theorem resetEvent_params (s : State) : (resetEvent s).params = s.params := rfl
@[simp] theorem resetEvent_script (s : State) : (resetEvent s).script = s.script := rfl
@[simp] theorem resetEvent_hostData (s : State) : (resetEvent s).hostData = s.hostData := rfl
@[simp] theorem resetEvent_fnOut (s : State) : (resetEvent s).fnOut = s.fnOut := rfl
@[simp] theorem resetEvent_draws (s : State) : (resetEvent s).draws = s.draws + 1 := rfl

@[simp] theorem roundStep_w (c : Scratch) : c.roundStep.w = roundAt c.rnd c.w := rfl
@[simp] theorem roundStep_s0 (c : Scratch) : c.roundStep.s0 = c.s0 := rfl
@[simp] theorem roundStep_rnd (c : Scratch) : c.roundStep.rnd = c.rnd + 1 := rfl
@[simp] theorem roundStep_ctr (c : Scratch) : c.roundStep.ctr = c.ctr := rfl
@[simp] theorem roundStep_pos (c : Scratch) : c.roundStep.pos = c.pos := rfl
@[simp] theorem roundStep_mpos (c : Scratch) : c.roundStep.mpos = c.mpos := rfl
@[simp] theorem roundStep_subkey (c : Scratch) : c.roundStep.subkey = c.subkey := rfl
@[simp] theorem roundStep_cnonce (c : Scratch) : c.roundStep.cnonce = c.cnonce := rfl
@[simp] theorem roundStep_ks (c : Scratch) : c.roundStep.ks = c.ks := rfl
@[simp] theorem roundStep_otk (c : Scratch) : c.roundStep.otk = c.otk := rfl
@[simp] theorem roundStep_r (c : Scratch) : c.roundStep.r = c.r := rfl
@[simp] theorem roundStep_s (c : Scratch) : c.roundStep.s = c.s := rfl
@[simp] theorem roundStep_acc (c : Scratch) : c.roundStep.acc = c.acc := rfl
@[simp] theorem roundStep_lenblk (c : Scratch) : c.roundStep.lenblk = c.lenblk := rfl
@[simp] theorem roundStep_ctag (c : Scratch) : c.roundStep.ctag = c.ctag := rfl
@[simp] theorem roundStep_diff (c : Scratch) : c.roundStep.diff = c.diff := rfl

@[simp] theorem zero_w : Scratch.zero.w = zeroWords := rfl
@[simp] theorem zero_s0 : Scratch.zero.s0 = zeroWords := rfl
@[simp] theorem zero_rnd : Scratch.zero.rnd = 0 := rfl
@[simp] theorem zero_ctr : Scratch.zero.ctr = 0 := rfl
@[simp] theorem zero_pos : Scratch.zero.pos = 0 := rfl
@[simp] theorem zero_mpos : Scratch.zero.mpos = 0 := rfl
@[simp] theorem zero_subkey : Scratch.zero.subkey = zeroBytes 32 := rfl
@[simp] theorem zero_cnonce : Scratch.zero.cnonce = zeroBytes 12 := rfl
@[simp] theorem zero_ks : Scratch.zero.ks = zeroBytes 64 := rfl
@[simp] theorem zero_otk : Scratch.zero.otk = zeroBytes 32 := rfl
@[simp] theorem zero_r : Scratch.zero.r = 0 := rfl
@[simp] theorem zero_s : Scratch.zero.s = 0 := rfl
@[simp] theorem zero_acc : Scratch.zero.acc = 0 := rfl
@[simp] theorem zero_lenblk : Scratch.zero.lenblk = zeroBytes 16 := rfl
@[simp] theorem zero_ctag : Scratch.zero.ctag = zeroBytes 16 := rfl
@[simp] theorem zero_diff : Scratch.zero.diff = 0 := rfl

@[simp] theorem buf_abuf (s : State) : s.buf .abuf = s.abuf := rfl
@[simp] theorem buf_dbuf (s : State) : s.buf .dbuf = s.dbuf := rfl
@[simp] theorem cap_abuf (s : State) : s.cap .abuf = s.params.abufCap := rfl
@[simp] theorem cap_dbuf (s : State) : s.cap .dbuf = s.params.dbufCap := rfl

end Sys2Proof.Machine
end

