-- ==== Sys2Proof/Laws/Meanings.lean ====
section
/-! SUPPORT. The meanings that touch a buffer, as one equation each where the bytes exist: proofs cite these instead of
unfolding MemRead and MemWrite. -/

namespace Sys2Proof.Machine

/-- The state before the transfer of an XOR step (R155). -/
def xorBody (s : State) : State :=
  { s with dbuf := s.dbuf.writeBytes s.scr.pos.toNat
             (xorBytes (s.dbuf.readBytes s.scr.pos.toNat (xorLen s)) s.scr.ks.toList),
           scr := { s.scr with ks := zeroBytes 64, pos := s.scr.pos + BitVec.ofNat 64 (xorLen s) } }

theorem xorLen_le (s : State) : xorLen s ≤ 64 := Nat.min_le_left _ _

theorem aadLen_le (s : State) : aadLen s ≤ 16 := Nat.min_le_left _ _

theorem dataLen_le (s : State) : dataLen s ≤ 16 := Nat.min_le_left _ _

theorem length_xorBytes (d ks : List Byte) : (xorBytes d ks).length = min d.length ks.length := by
  simp [xorBytes]

/-- The bytes an XOR step writes are as many as it reads (R155). -/
theorem length_xorChunk (s : State) :
    (xorBytes (s.dbuf.readBytes s.scr.pos.toNat (xorLen s)) s.scr.ks.toList).length = xorLen s := by
  have := xorLen_le s
  rw [length_xorBytes, Memory.length_readBytes, Vector.length_toList]
  omega

/-- XOR where its chunk exists (R155, R66). -/
theorem execXor_eq {s : State} (h : s.scr.pos.toNat + xorLen s ≤ s.params.dbufCap) :
    execXor s = .next (xorNext (xorBody s)) := by
  unfold execXor
  rw [memRead_ok (sp := .dbuf) h]
  dsimp only
  rw [memWrite_ok (by rw [buf_dbuf, length_xorChunk]; exact h)]
  rfl

/-- MAC_AAD where its block exists (R196, R66). -/
theorem execMacAad_eq {s : State} (h : s.scr.mpos.toNat + aadLen s ≤ s.params.abufCap) :
    execMacAad s =
      (if s.scr.mpos + BitVec.ofNat 64 (aadLen s) = s.alen then
        .next { s with
          scr := { s.scr with acc := s.scr.absorbed (padBlock (s.abuf.readBytes s.scr.mpos.toNat (aadLen s))), mpos := 0 },
          phase := if 0 < s.dlen.toNat then Phase.macData else Phase.macLen }
      else
        .next { s with
          scr := { s.scr with
            acc := s.scr.absorbed (padBlock (s.abuf.readBytes s.scr.mpos.toNat (aadLen s)))
            mpos := s.scr.mpos + BitVec.ofNat 64 (aadLen s) } }) := by
  unfold execMacAad
  rw [memRead_ok (sp := .abuf) h]
  rfl

/-- MAC_DATA where its block exists (R197, R66). -/
theorem execMacData_eq {s : State} (h : s.scr.mpos.toNat + dataLen s ≤ s.params.dbufCap) :
    execMacData s =
      (if s.scr.mpos + BitVec.ofNat 64 (dataLen s) = s.dlen then
        .next { s with
          scr := { s.scr with acc := s.scr.absorbed (padBlock (s.dbuf.readBytes s.scr.mpos.toNat (dataLen s))), mpos := 0 },
          phase := Phase.macLen }
      else
        .next { s with
          scr := { s.scr with
            acc := s.scr.absorbed (padBlock (s.dbuf.readBytes s.scr.mpos.toNat (dataLen s)))
            mpos := s.scr.mpos + BitVec.ofNat 64 (dataLen s) } }) := by
  unfold execMacData
  rw [memRead_ok (sp := .dbuf) h]
  rfl

/-- FAIL_ERASE where the data exists (R201, R67). -/
theorem execFailErase_eq {s : State} (h : s.dlen.toNat ≤ s.params.dbufCap) :
    execFailErase s =
      .next { s with dbuf := s.dbuf.writeBytes 0 (List.replicate s.dlen.toNat 0), phase := Phase.wipe } := by
  unfold execFailErase
  rw [memWrite_ok (by simpa using h)]
  rfl

end Sys2Proof.Machine
end

