-- ==== Sys2Proof/WellFormed.lean ====
section
/-! DEFINITION. Which instruction terms the spec gives a meaning: the operand ranges its rules state. Fixed
operand sizes (R6) are in the types of `Instr`; the checks are those a type does not carry. -/

namespace Sys2Proof

/-- The rotation amounts that occur (R102): "a fixed amount n in (16, 12, 8, 7)". -/
def rotationAmounts : List Nat := [16, 12, 8, 7]

/-- Well-formed instructions: the amount of ROTL32 (R102), the length bound of XChaCha20Xor (R152) and the 64-bit
lengths of MacInput (R194, `LE64B` is defined below 2^64, R10). -/
def Instr.wf : Instr → Bool
  | .rotl32 _ n => rotationAmounts.contains n
  | .xchacha20Xor _ _ data => decide (data.length ≤ Machine.ctrMaxDlen)
  | .macInput aad ct => decide (aad.length < 2 ^ 64) && decide (ct.length < 2 ^ 64)
  | .encrypt _ | .decrypt _ | .idle | .check | .hcLoad | .hcRound | .hcOut | .blkLoad | .blkRound | .blkOut
  | .otk | .xor | .macInit | .macAad | .macData | .macLen | .macFinal | .tagOut | .tagCmp | .failErase | .wipe
  | .add32 _ _ | .xor32 _ _ | .qr _ _ _ _ | .colround _ | .diaground _ | .doubleround _ | .perm20 _
  | .roundstep | .chacha20Block _ _ _ | .hchacha20 _ _ | .xchacha20PolyKey _ _ | .poly1305Mac _ _
  | .macAbsorb16 _ => true

end Sys2Proof
end

