-- ==== Sys2Proof/Laws/PerInstr.lean ====
section
/-! SUPPORT. The family Format: what the three formats (R80, R88, R91) say of an instruction as syntax. -/

namespace Sys2Proof.Laws.Format

/-- The number of bytes of an instruction's code: four for a command word, one for a phase code, none for a format P
row. -/
def codeBytes (i : Instr) : Nat :=
  match encode i with
  | some c => c.bytes.length
  | none => 0

/-- An instruction is encoded by a command word exactly when it is a host command, by a phase code exactly when it
is a unit operation, and only an encoded instruction has bytes. -/
def Statement (i : Instr) : Prop :=
  (encode i = none ∧ codeBytes i = 0) ∨
  (i.wf = true ∧ (∃ p, p.toNat ≤ 18 ∧ encode i = some (.phase p)) ∧ codeBytes i = 1) ∨
  (i.wf = true ∧ (∃ w, encode i = some (.cmd w) ∧ (cmdOpc w = 1 ∨ cmdOpc w = 2)) ∧ codeBytes i = 4)

theorem encrypt (r : BitVec 24) : Statement (.encrypt r) :=
  .inr (.inr ⟨rfl, ⟨_, rfl, .inl (Machine.cmdOpc_append r 1)⟩, rfl⟩)
theorem decrypt (r : BitVec 24) : Statement (.decrypt r) :=
  .inr (.inr ⟨rfl, ⟨_, rfl, .inr (Machine.cmdOpc_append r 2)⟩, rfl⟩)
theorem idle : Statement .idle := .inr (.inl ⟨rfl, ⟨0, by decide, rfl⟩, rfl⟩)
theorem check : Statement .check := .inr (.inl ⟨rfl, ⟨1, by decide, rfl⟩, rfl⟩)
theorem hcLoad : Statement .hcLoad := .inr (.inl ⟨rfl, ⟨2, by decide, rfl⟩, rfl⟩)
theorem hcRound : Statement .hcRound := .inr (.inl ⟨rfl, ⟨3, by decide, rfl⟩, rfl⟩)
theorem hcOut : Statement .hcOut := .inr (.inl ⟨rfl, ⟨4, by decide, rfl⟩, rfl⟩)
theorem blkLoad : Statement .blkLoad := .inr (.inl ⟨rfl, ⟨5, by decide, rfl⟩, rfl⟩)
theorem blkRound : Statement .blkRound := .inr (.inl ⟨rfl, ⟨6, by decide, rfl⟩, rfl⟩)
theorem blkOut : Statement .blkOut := .inr (.inl ⟨rfl, ⟨7, by decide, rfl⟩, rfl⟩)
theorem otk : Statement .otk := .inr (.inl ⟨rfl, ⟨8, by decide, rfl⟩, rfl⟩)
theorem xor : Statement .xor := .inr (.inl ⟨rfl, ⟨9, by decide, rfl⟩, rfl⟩)
theorem macInit : Statement .macInit := .inr (.inl ⟨rfl, ⟨10, by decide, rfl⟩, rfl⟩)
theorem macAad : Statement .macAad := .inr (.inl ⟨rfl, ⟨11, by decide, rfl⟩, rfl⟩)
theorem macData : Statement .macData := .inr (.inl ⟨rfl, ⟨12, by decide, rfl⟩, rfl⟩)
theorem macLen : Statement .macLen := .inr (.inl ⟨rfl, ⟨13, by decide, rfl⟩, rfl⟩)
theorem macFinal : Statement .macFinal := .inr (.inl ⟨rfl, ⟨14, by decide, rfl⟩, rfl⟩)
theorem tagOut : Statement .tagOut := .inr (.inl ⟨rfl, ⟨15, by decide, rfl⟩, rfl⟩)
theorem tagCmp : Statement .tagCmp := .inr (.inl ⟨rfl, ⟨16, by decide, rfl⟩, rfl⟩)
theorem failErase : Statement .failErase := .inr (.inl ⟨rfl, ⟨17, by decide, rfl⟩, rfl⟩)
theorem wipe : Statement .wipe := .inr (.inl ⟨rfl, ⟨18, by decide, rfl⟩, rfl⟩)
theorem add32 (a b : Word) : Statement (.add32 a b) := .inl ⟨rfl, rfl⟩
theorem xor32 (a b : Word) : Statement (.xor32 a b) := .inl ⟨rfl, rfl⟩
theorem rotl32 (x : Word) (n : Nat) : Statement (.rotl32 x n) := .inl ⟨rfl, rfl⟩
theorem qr (a b c d : Word) : Statement (.qr a b c d) := .inl ⟨rfl, rfl⟩
theorem colround (w : CipherState) : Statement (.colround w) := .inl ⟨rfl, rfl⟩
theorem diaground (w : CipherState) : Statement (.diaground w) := .inl ⟨rfl, rfl⟩
theorem doubleround (w : CipherState) : Statement (.doubleround w) := .inl ⟨rfl, rfl⟩
theorem perm20 (w : CipherState) : Statement (.perm20 w) := .inl ⟨rfl, rfl⟩
theorem roundstep : Statement .roundstep := .inl ⟨rfl, rfl⟩
theorem chacha20Block (key : Vector Byte 32) (ctr : Word) (nonce : Vector Byte 12) :
    Statement (.chacha20Block key ctr nonce) := .inl ⟨rfl, rfl⟩
theorem hchacha20 (key : Vector Byte 32) (pre : Vector Byte 16) : Statement (.hchacha20 key pre) := .inl ⟨rfl, rfl⟩
theorem xchacha20Xor (key : Vector Byte 32) (xn : Vector Byte 24) (data : List Byte) :
    Statement (.xchacha20Xor key xn data) := .inl ⟨rfl, rfl⟩
theorem xchacha20PolyKey (key : Vector Byte 32) (xn : Vector Byte 24) : Statement (.xchacha20PolyKey key xn) :=
  .inl ⟨rfl, rfl⟩
theorem poly1305Mac (otk : Vector Byte 32) (msg : List Byte) : Statement (.poly1305Mac otk msg) := .inl ⟨rfl, rfl⟩
theorem macAbsorb16 (blk : Vector Byte 16) : Statement (.macAbsorb16 blk) := .inl ⟨rfl, rfl⟩
theorem macInput (aad ct : List Byte) : Statement (.macInput aad ct) := .inl ⟨rfl, rfl⟩

end Sys2Proof.Laws.Format
end

