-- ==== Sys2Proof/Laws/Steps.lean ====
section
/-! SUPPORT. What a step can do, once: the host's write of CMD is START for every word, and a step that answers a next
state is the core's unit operation, the idle core, or one named effect of the host's move. -/

namespace Sys2Proof.Machine

/-- Executing a decoded command word is START with that word (R82, R190). -/
theorem exec_decodeCmd {v : Word} {i : Instr} (h : decodeCmd v = .ok i) (s : State) :
    exec i s = .next (startCommand v s) := by
  unfold decodeCmd at h
  have hv := cmd_split v
  split at h
  · next ho =>
    cases h
    rw [ho] at hv
    simp only [exec, execEncrypt, hv]
  · split at h
    · next ho =>
      cases h
      rw [ho] at hv
      simp only [exec, execDecrypt, hv]
    · cases h

/-- The host's write of CMD (R190), whatever the word (R83). -/
theorem step_wr_cmd {s : State} (hp : s.phase.toNat ≤ 18) (v : Word) (rest : List HostMove) :
    step { s with script := .wr 0 v :: rest } = .next (startCommand v { s with script := rest }) := by
  have hd : decodeRegOffset 0 = .ok .cmd := rfl
  have hf : fetch { s with script := .wr 0 v :: rest } = _ := fetch_move rfl (.inl hp)
  simp only [step, hf, moveFetch, writeMove, hd]
  cases h : decodeCmd v with
  | ok i => exact exec_decodeCmd h _
  | error e => rfl

/-- The effect a host move has on the state without it: what `hostMove_cases` names. -/
inductive MoveEffect : HostMove → State → State → Prop where
  /-- A write of CMD (R190). -/
  | start (v : Word) (s : State) : MoveEffect (.wr 0 v) s (startCommand v s)
  /-- A write of another register (R44). -/
  | write (off : Nat) (v : Word) (r : HostReg) (s : State) (h : decodeRegOffset off = .ok r) (hr : r ≠ .cmd) :
      MoveEffect (.wr off v) s (regWrite r v s)
  /-- A read of a register (R44). -/
  | read (off : Nat) (r : HostReg) (s : State) (h : decodeRegOffset off = .ok r) :
      MoveEffect (.rd off) s { s with hostData := .word (regRead r s) }
  /-- A write of a buffer while idle (R44, R74). -/
  | bufWrite (sp : BufSpace) (off : Nat) (bs : List Byte) (s : State) (hb : s.status.busy = false)
      (h : off + bs.length ≤ s.cap sp) :
      MoveEffect (.wrb sp off bs) s (s.setBuf sp ((s.buf sp).writeBytes off bs))
  /-- A read of a buffer while idle (R44, R74). -/
  | bufRead (sp : BufSpace) (off n : Nat) (s : State) (hb : s.status.busy = false) (h : off + n ≤ s.cap sp) :
      MoveEffect (.rdb sp off n) s { s with hostData := .bytes ((s.buf sp).readBytes off n) }
  /-- The last read of a `wait` (R89). -/
  | waited (s : State) (h : s.status.done = true) : MoveEffect .wait s { s with hostData := .word s.status.toWord }
  /-- The reset input (R260, R261). -/
  | reset (s : State) : MoveEffect .reset s (resetEvent s)

/-- The offset of CMD is 0 and of no other register (R81). -/
theorem decodeRegOffset_cmd {off : Nat} (h : decodeRegOffset off = .ok .cmd) : off = 0 := by
  unfold decodeRegOffset at h
  split at h
  · split at h <;> (cases h; try omega)
  · cases h

/-- The core's turn that answers a next state (R20, R26): the unit operation PHASE names, or nothing while idle. -/
theorem coreTurn_cases {s t : State}
    (h : (match coreFetch s with | .run i u => exec i u | .done o => o) = .next t) :
    (s.status.busy = false ∧ t = s) ∨
    (s.status.busy = true ∧ ∃ i, decodePhase s.phase = .ok i ∧ exec i s = .next t) := by
  rcases coreFetch_cases s with ⟨hb, _, hf⟩ | ⟨hb, i, hd, hf⟩ | ⟨_, hf⟩
  · rw [hf] at h
    exact .inl ⟨hb, (Host.Outcome.next.inj h).symm⟩
  · rw [hf] at h
    exact .inr ⟨hb, i, hd, h⟩
  · rw [hf] at h
    cases h

/-- Everything a step that answers a next state can be: the core's turn (no move, `core`, or `wait` before DONE), with
the idle core changing nothing, or one host move and its effect. -/
theorem step_cases {s t : State} (h : step s = .next t) :
    (∃ u : State, (u = s ∧ (s.script = [] ∨ ∃ rest, s.script = .wait :: rest ∧ s.status.done = false) ∨
        ∃ rest, s.script = .core :: rest ∧ u = { s with script := rest }) ∧
      ((u.status.busy = false ∧ t = u) ∨
        (u.status.busy = true ∧ ∃ i, decodePhase u.phase = .ok i ∧ exec i u = .next t))) ∨
    (∃ m rest, s.script = m :: rest ∧ MoveEffect m { s with script := rest } t) := by
  unfold step fetch at h
  split at h
  next _ i u hf =>
    split at hf
    · next hs =>
      refine .inl ⟨s, .inl ⟨rfl, .inl hs⟩, coreTurn_cases ?_⟩
      rw [hf]; exact h
    · next m rest hs =>
      split at hf
      · cases hf
      rename_i hp
      clear hp
      unfold moveFetch at hf
      dsimp only at hf
      split at hf
      · split at hf
        · cases hf
        · next hd =>
          refine .inl ⟨s, .inl ⟨rfl, .inr ⟨rest, hs, by simpa using hd⟩⟩, coreTurn_cases ?_⟩
          rw [hf]; exact h
      · refine .inl ⟨_, .inr ⟨rest, hs, rfl⟩, coreTurn_cases ?_⟩
        rw [hf]; exact h
      · next off v =>
        unfold writeMove at hf
        split at hf
        · cases hf
        · next hr =>
          split at hf
          · next j hd =>
            cases hf
            rw [exec_decodeCmd hd] at h
            cases h
            rw [decodeRegOffset_cmd hr] at hs
            exact .inr ⟨_, rest, hs, .start v _⟩
          · cases hf
        · cases hf
      · unfold readMove at hf
        split at hf <;> cases hf
      · unfold bufWriteMove at hf
        split at hf
        · cases hf
        · split at hf <;> cases hf
      · unfold bufReadMove at hf
        split at hf
        · cases hf
        · split at hf <;> cases hf
      · cases hf
  next _ o hf =>
    subst h
    split at hf
    · next hs =>
      refine .inl ⟨s, .inl ⟨rfl, .inl hs⟩, coreTurn_cases ?_⟩
      rw [hf]
    · next m rest hs =>
      refine .inr ⟨m, rest, hs, ?_⟩
      split at hf
      · cases hf
      rename_i hp
      clear hp
      unfold moveFetch at hf
      dsimp only at hf
      split at hf
      · split at hf
        · next hd =>
          cases hf
          exact .waited _ hd
        · rcases coreFetch_cases s with ⟨_, _, hc⟩ | ⟨_, i, _, hc⟩ | ⟨_, hc⟩ <;> rw [hc] at hf <;> cases hf
      · rcases coreFetch_cases { s with script := rest } with ⟨_, _, hc⟩ | ⟨_, i, _, hc⟩ | ⟨_, hc⟩ <;>
          rw [hc] at hf <;> cases hf
      · next off v =>
        unfold writeMove at hf
        split at hf
        · cases hf
        · next hr =>
          split at hf
          · cases hf
          · cases hf
            rw [decodeRegOffset_cmd hr]
            exact .start v _
        · next r hne hr =>
          cases hf
          exact .write off v r _ hr hne
      · next off =>
        unfold readMove at hf
        split at hf
        · cases hf
        · next r hr =>
          cases hf
          exact .read off r _ hr
      · next sp off bs =>
        unfold bufWriteMove at hf
        split at hf
        · cases hf
        · next hb =>
          by_cases hc : off + bs.length ≤ State.cap { s with script := rest } sp
          · rw [memWrite_ok hc] at hf
            cases hf
            exact .bufWrite sp off bs _ (by simpa using hb) hc
          · simp only [memWrite, if_neg hc] at hf
            cases hf
      · next sp off n =>
        unfold bufReadMove at hf
        split at hf
        · cases hf
        · next hb =>
          by_cases hc : off + n ≤ State.cap { s with script := rest } sp
          · rw [memRead_ok hc] at hf
            cases hf
            exact .bufRead sp off n _ (by simpa using hb) hc
          · simp only [memRead, if_neg hc] at hf
            cases hf
      · cases hf
        exact .reset _

end Sys2Proof.Machine
end

