-- ==== Sys2Proof/Laws/Phases.lean ====
section
/-! SUPPORT. What the core's step can do, phase by phase, once: later proofs split on `PhaseEffect` and unfold no
meaning. -/

namespace Sys2Proof.Machine

/-- A decoded phase code is the instruction's own code (R86). -/
theorem encode_of_decodePhase {p : BitVec 5} {i : Instr} (h : decodePhase p = .ok i) : encode i = some (.phase p) := by
  have hp : p = BitVec.ofNat 5 p.toNat := by simp
  unfold decodePhase at h
  split at h <;> cases h <;> rename_i hn <;> rw [hn] at hp <;> rw [hp] <;> rfl

/-- An XOR step that answers a next state had its chunk (R155). -/
theorem execXor_next {s t : State} (h : execXor s = .next t) : t = xorNext (xorBody s) := by
  by_cases hc : s.scr.pos.toNat + xorLen s ≤ s.params.dbufCap
  · rw [execXor_eq hc] at h
    exact (Host.Outcome.next.inj h).symm
  · unfold execXor at h
    simp [memRead, hc] at h

/-- A MAC_AAD step that answers a next state had its block (R196). -/
theorem execMacAad_next {s t : State} (h : execMacAad s = .next t) :
    s.scr.mpos.toNat + aadLen s ≤ s.params.abufCap := by
  by_contra hc
  unfold execMacAad at h
  simp [memRead, hc] at h

/-- A MAC_DATA step that answers a next state had its block (R197). -/
theorem execMacData_next {s t : State} (h : execMacData s = .next t) :
    s.scr.mpos.toNat + dataLen s ≤ s.params.dbufCap := by
  by_contra hc
  unfold execMacData at h
  simp [memRead, hc] at h

/-- A FAIL_ERASE step that answers a next state had its data (R201). -/
theorem execFailErase_next {s t : State} (h : execFailErase s = .next t) : s.dlen.toNat ≤ s.params.dbufCap := by
  by_contra hc
  unfold execFailErase at h
  simp [memWrite, hc] at h

/-- The effect of the unit operation PHASE names, one case per row of R195 that a step of the core takes. -/
inductive PhaseEffect (s : State) : State → Prop where
  | idle (h : s.phase = Phase.idle) : PhaseEffect s s
  | violation (h : s.phase = Phase.check) (i : BitVec 4) (hc : contractFailure s = some i) :
      PhaseEffect s (raiseContractViolation i s)
  | checked (h : s.phase = Phase.check) (hc : contractFailure s = none) : PhaseEffect s (s.setPhase Phase.hcLoad)
  | hcLoad (h : s.phase = Phase.hcLoad) :
      PhaseEffect s { s with
        scr := { s.scr with w := hInitState s.key (noncePrefix s.xnonce), rnd := 0 }, phase := Phase.hcRound }
  | hcRound (h : s.phase = Phase.hcRound) : PhaseEffect s (roundPhase Phase.hcOut s)
  | hcOut (h : s.phase = Phase.hcOut) (c : Word)
      (h1 : s.opc = opcEncrypt → 0 < s.dlen.toNat → c = 1) (h0 : s.opc ≠ opcEncrypt ∨ s.dlen.toNat = 0 → c = 0) :
      PhaseEffect s { s with
        scr := { s.scr with
          subkey := subkeyOf s.scr.w
          cnonce := chachaNonce s.xnonce
          w := zeroWords
          rnd := 0
          ctr := c }
        phase := Phase.blkLoad }
  | blkLoad (h : s.phase = Phase.blkLoad) :
      PhaseEffect s { s with
        scr := { s.scr with
          w := initState s.scr.subkey s.scr.ctr s.scr.cnonce
          s0 := initState s.scr.subkey s.scr.ctr s.scr.cnonce
          rnd := 0 }
        phase := Phase.blkRound }
  | blkRound (h : s.phase = Phase.blkRound) : PhaseEffect s (roundPhase Phase.blkOut s)
  | blkOut (h : s.phase = Phase.blkOut) (p : BitVec 5) (h0 : s.scr.ctr = 0 → p = Phase.otk)
      (h1 : s.scr.ctr ≠ 0 → p = Phase.xor) :
      PhaseEffect s { s with
        scr := { s.scr with
          ks := serialize16 (addBack s.scr.w s.scr.s0)
          w := zeroWords
          s0 := zeroWords
          rnd := 0 }
        phase := p }
  | otk (h : s.phase = Phase.otk) :
      PhaseEffect s { s with
        scr := { s.scr with otk := firstHalf s.scr.ks, ks := zeroBytes 64 }, phase := Phase.macInit }
  | xor (h : s.phase = Phase.xor) : PhaseEffect s (xorNext (xorBody s))
  | macInit (h : s.phase = Phase.macInit) (r' s' : Nat) (p : BitVec 5) (hr : r' = macR s.scr.otk)
      (hs : s' = macS s.scr.otk) (h1 : 0 < s.alen.toNat → p = Phase.macAad)
      (h2 : s.alen.toNat = 0 → 0 < s.dlen.toNat → p = Phase.macData)
      (h3 : s.alen.toNat = 0 → s.dlen.toNat = 0 → p = Phase.macLen) :
      PhaseEffect s { s with scr := { s.scr with r := r', s := s', acc := 0, mpos := 0 }, phase := p }
  | macAadLast (h : s.phase = Phase.macAad) (acc : Nat) (p : BitVec 5)
      (hacc : acc = s.scr.absorbed (padBlock (s.abuf.readBytes s.scr.mpos.toNat (aadLen s))))
      (hm : s.scr.mpos + BitVec.ofNat 64 (aadLen s) = s.alen)
      (h1 : 0 < s.dlen.toNat → p = Phase.macData) (h0 : s.dlen.toNat = 0 → p = Phase.macLen) :
      PhaseEffect s { s with scr := { s.scr with acc := acc, mpos := 0 }, phase := p }
  | macAadMore (h : s.phase = Phase.macAad) (acc : Nat) (m : BitVec 64)
      (hacc : acc = s.scr.absorbed (padBlock (s.abuf.readBytes s.scr.mpos.toNat (aadLen s))))
      (hm : m = s.scr.mpos + BitVec.ofNat 64 (aadLen s)) (hne : m ≠ s.alen) :
      PhaseEffect s { s with scr := { s.scr with acc := acc, mpos := m } }
  | macDataLast (h : s.phase = Phase.macData) (acc : Nat)
      (hacc : acc = s.scr.absorbed (padBlock (s.dbuf.readBytes s.scr.mpos.toNat (dataLen s))))
      (hm : s.scr.mpos + BitVec.ofNat 64 (dataLen s) = s.dlen) :
      PhaseEffect s { s with scr := { s.scr with acc := acc, mpos := 0 }, phase := Phase.macLen }
  | macDataMore (h : s.phase = Phase.macData) (acc : Nat) (m : BitVec 64)
      (hacc : acc = s.scr.absorbed (padBlock (s.dbuf.readBytes s.scr.mpos.toNat (dataLen s))))
      (hm : m = s.scr.mpos + BitVec.ofNat 64 (dataLen s)) (hne : m ≠ s.dlen) :
      PhaseEffect s { s with scr := { s.scr with acc := acc, mpos := m } }
  | macLen (h : s.phase = Phase.macLen) (acc : Nat) (b : Vector Byte 16) (hb : b = lenBlock s)
      (hacc : acc = s.scr.absorbed b) :
      PhaseEffect s { s with scr := { s.scr with acc := acc, lenblk := b }, phase := Phase.macFinal }
  | macFinal (h : s.phase = Phase.macFinal) (c : Vector Byte 16) (p : BitVec 5) (hc : c = macTag s.scr.acc s.scr.s)
      (h1 : s.opc = opcEncrypt → p = Phase.tagOut) (h0 : s.opc ≠ opcEncrypt → p = Phase.tagCmp) :
      PhaseEffect s { s with
        scr := { s.scr with ctag := c, r := 0, s := 0, acc := 0, otk := zeroBytes 32 }, phase := p }
  | tagOut (h : s.phase = Phase.tagOut) : PhaseEffect s { s with tag := s.scr.ctag, phase := Phase.wipe }
  | tagEqual (h : s.phase = Phase.tagCmp) (he : s.scr.ctag = s.tag) (hd : 0 < s.dlen.toNat) :
      PhaseEffect s { s with scr := { s.scr with diff := 0, ctr := 1 }, phase := Phase.blkLoad }
  | tagEqualEmpty (h : s.phase = Phase.tagCmp) (he : s.scr.ctag = s.tag) (hd : s.dlen.toNat = 0) :
      PhaseEffect s { s with scr := { s.scr with diff := 0 }, phase := Phase.wipe }
  | tagDiffer (h : s.phase = Phase.tagCmp) (he : s.scr.ctag ≠ s.tag) (d : Byte) (hd : d = tagDiff s.scr.ctag s.tag)
      (h0 : d ≠ 0) :
      PhaseEffect s { s with
        scr := { s.scr with diff := d }
        status := { s.status with err := errAuthentication }
        phase := Phase.failErase }
  | failErase (h : s.phase = Phase.failErase) (hc : s.dlen.toNat ≤ s.params.dbufCap) :
      PhaseEffect s { s with dbuf := s.dbuf.writeBytes 0 (List.replicate s.dlen.toNat 0), phase := Phase.wipe }
  | wipe (h : s.phase = Phase.wipe) :
      PhaseEffect s { s with
        scr := Scratch.zero
        key := zeroBytes 32
        status := { s.status with busy := false, done := true }
        phase := Phase.idle }

/-- Executing the instruction of the current phase has the effect of that phase. -/
theorem exec_phase_cases {s t : State} {i : Instr} (hd : decodePhase s.phase = .ok i) (h : exec i s = .next t) :
    PhaseEffect s t := by
  have he := encode_of_decodePhase hd
  clear hd
  have code : ∀ {c : BitVec 5}, some (Code.phase c) = some (Code.phase s.phase) → s.phase = c := by
    intro c hc
    injection hc with hc
    injection hc with hc
    exact hc.symm
  cases i
  case idle => cases h; exact .idle (code he)
  case check =>
    replace he := code he
    simp only [exec, execCheck] at h
    split at h
    · next i hi => cases h; exact .violation he i hi
    · next hi => cases h; exact .checked he hi
  case hcLoad => cases h; exact .hcLoad (code he)
  case hcRound => cases h; exact .hcRound (code he)
  case hcOut =>
    cases h
    refine .hcOut (code he) _ ?_ ?_
    · intro h1 h2; exact if_pos ⟨h1, h2⟩
    · intro h; exact if_neg fun ⟨h1, h2⟩ => h.elim (· h1) (by omega)
  case blkLoad => cases h; exact .blkLoad (code he)
  case blkRound => cases h; exact .blkRound (code he)
  case blkOut => cases h; exact .blkOut (code he) _ (fun h => if_pos h) (fun h => if_neg h)
  case otk => cases h; exact .otk (code he)
  case xor =>
    simp only [exec] at h
    rw [execXor_next h]
    exact .xor (code he)
  case macInit =>
    cases h
    refine .macInit (code he) _ _ _ rfl rfl (fun h => if_pos h) ?_ ?_
    · intro h1 h2; exact (if_neg (by omega)).trans (if_pos h2)
    · intro h1 h2; exact (if_neg (by omega)).trans (if_neg (by omega))
  case macAad =>
    simp only [exec] at h
    rw [execMacAad_eq (execMacAad_next h)] at h
    split at h
    · next hm => cases h; exact .macAadLast (code he) _ _ rfl hm (fun h => if_pos h) (fun h => if_neg (by omega))
    · next hm => cases h; exact .macAadMore (code he) _ _ rfl rfl hm
  case macData =>
    simp only [exec] at h
    rw [execMacData_eq (execMacData_next h)] at h
    split at h
    · next hm => cases h; exact .macDataLast (code he) _ rfl hm
    · next hm => cases h; exact .macDataMore (code he) _ _ rfl rfl hm
  case macLen => cases h; exact .macLen (code he) _ _ rfl rfl
  case macFinal => cases h; exact .macFinal (code he) _ _ rfl (fun h => if_pos h) (fun h => if_neg h)
  case tagOut => cases h; exact .tagOut (code he)
  case tagCmp =>
    replace he := code he
    simp only [exec, execTagCmp] at h
    split at h
    · next hz =>
      have heq := (tagDiff_eq_zero_iff _ _).1 hz
      rw [hz] at h
      split at h
      · next hp => cases h; exact .tagEqual he heq hp
      · next hp => cases h; exact .tagEqualEmpty he heq (by omega)
    · next hz => cases h; exact .tagDiffer he (fun e => hz ((tagDiff_eq_zero_iff _ _).2 e)) _ rfl hz
  case failErase =>
    simp only [exec] at h
    have hc := execFailErase_next h
    rw [execFailErase_eq hc] at h
    cases h
    exact .failErase (code he) hc
  case wipe => cases h; exact .wipe (code he)
  all_goals cases he

/-- A step of the busy core, with no host move to come, has the effect of its phase. -/
theorem step_phase_cases {s t : State} (hb : s.status.busy = true) (hs : s.script = []) (h : step s = .next t) :
    PhaseEffect s t := by
  rw [step_nil hs] at h
  rcases coreTurn_cases h with ⟨hb', _⟩ | ⟨_, i, hd, hx⟩
  · rw [hb] at hb'
    cases hb'
  · exact exec_phase_cases hd hx

/-- The state an XOR step leaves: the chunk written, the counter and the successor (R155). -/
theorem xorNext_cases (s : State) : ∃ c p, xorNext s = { s with scr := { s.scr with ctr := c }, phase := p } ∧
    (s.scr.pos.toNat < s.dlen.toNat → c = s.scr.ctr + 1 ∧ p = Phase.blkLoad) ∧
    (s.dlen.toNat ≤ s.scr.pos.toNat → s.opc = opcEncrypt → c = 0 ∧ p = Phase.blkLoad) ∧
    (s.dlen.toNat ≤ s.scr.pos.toNat → s.opc ≠ opcEncrypt → c = s.scr.ctr ∧ p = Phase.wipe) := by
  by_cases h1 : s.scr.pos.toNat < s.dlen.toNat
  · exact ⟨_, _, if_pos h1, fun _ => ⟨rfl, rfl⟩, fun h => absurd h1 (by omega), fun h => absurd h1 (by omega)⟩
  · by_cases h2 : s.opc = opcEncrypt
    · exact ⟨_, _, (if_neg h1).trans (if_pos h2), fun h => absurd h h1, fun _ _ => ⟨rfl, rfl⟩,
        fun _ h => absurd h2 h⟩
    · exact ⟨s.scr.ctr, Phase.wipe, (if_neg h1).trans (if_neg h2), fun h => absurd h h1, fun _ h => absurd h h2,
        fun _ _ => ⟨rfl, rfl⟩⟩

end Sys2Proof.Machine
end

