-- ==== Sys2Proof/Tests/Slice0.lean ====
section
/-! SUPPORT. Tests: expected values come from spec/ (each names its rule or vector), and each hypothesis of a statement
has a witness. -/

namespace Sys2Proof.Tests.Slice0

-- one kernel check at a time: each holds a whole stack
set_option Elab.async false

open Sys2Proof Sys2Proof.Machine

/-! ### Helpers -/

/-- n bytes written as one hexadecimal number, the first byte its highest. -/
def hex (n v : Nat) : Vector Byte n := Vector.ofFn fun i => BitVec.ofNat 8 (v / 256 ^ (n - 1 - i.val))

/-- Sixteen words written as one hexadecimal number, word 0 its highest. -/
def hexWords (v : Nat) : CipherState := Vector.ofFn fun i => BitVec.ofNat 32 (v / 2 ^ (32 * (15 - i.val)))

/-- The words 0, 1, ..., 15 (R104 to R106). -/
def countWords : CipherState := Vector.ofFn fun i => BitVec.ofNat 32 i.val

/-- The outcome is a next state that passes a check. -/
def nextIs (o : Out) (f : State → Bool) : Bool :=
  match o with
  | .next t => f t
  | .fault _ => false
  | .refused _ => false

/-- The outcome is this fault. -/
def faultIs (o : Out) (r : Fault) : Bool :=
  match o with
  | .fault q => decide (q = r)
  | .next _ => false
  | .refused _ => false

/-- The outcome is this refusal. -/
def refusedIs (o : Out) (r : Refusal) : Bool :=
  match o with
  | .refused q => decide (q = r)
  | .next _ => false
  | .fault _ => false

/-- A busy core in a phase, with the legal SIZES, an opcode, lengths and scratch. -/
def busyIn (p : BitVec 5) (opc : Byte) (alen dlen : BitVec 64) (c : Scratch) : State :=
  { State.reset with
    opc := opc, status := { busy := true, done := false, err := 0, errInfo := 0 },
    sizes := { klen := 32, nlen := 24, tlen := 16 }, alen := alen, dlen := dlen, phase := p, scr := c }

/-- An idle core with the legal SIZES and lengths. -/
def idleWith (alen dlen : BitVec 64) : State :=
  { State.reset with sizes := { klen := 32, nlen := 24, tlen := 16 }, alen := alen, dlen := dlen }

/-- Key and nonce of the vectors X1 and A1 to A9. -/
def keyA : Vector Byte 32 := hex 32 0x808182838485868788898a8b8c8d8e8f909192939495969798999a9b9c9d9e9f
def nonceA : Vector Byte 24 := hex 24 0x404142434445464748494a4b4c4d4e4f5051525354555657

/-! ### Well-formedness: each check refuses an ill-formed term -/

theorem test_wf_rotl32 : (Instr.rotl32 1 7).wf = true ∧ (Instr.rotl32 1 9).wf = false := by decide
theorem test_wf_lengths_small :
    (Instr.xchacha20Xor keyA nonceA [0]).wf = true ∧ (Instr.macInput [1] [2, 3]).wf = true := by decide

/-- Data longer than CTR_MAX_DLEN (R152, R8). -/
theorem test_wf_xchacha20Xor (data : List Byte) (h : ctrMaxDlen < data.length) :
    (Instr.xchacha20Xor keyA nonceA data).wf = false := by
  simp [Instr.wf, Nat.not_le_of_lt h]

/-- A segment of 2^64 bytes or more has no 64-bit length (R194, R10). -/
theorem test_wf_macInput (aad : List Byte) (h : 2 ^ 64 ≤ aad.length) : (Instr.macInput aad []).wf = false := by
  simp only [Instr.wf, Bool.and_eq_false_imp, decide_eq_true_eq]
  intro h2
  exact absurd h2 (Nat.not_lt.2 h)

/-- Such data exists: the two tests above are not empty. -/
theorem test_wf_lengths_exist :
    ctrMaxDlen < (List.replicate (ctrMaxDlen + 1) (0 : Byte)).length ∧
    2 ^ 64 ≤ (List.replicate (2 ^ 64) (0 : Byte)).length := by
  rw [List.length_replicate, List.length_replicate]
  exact ⟨Nat.lt_succ_self _, Nat.le_refl _⟩

/-! ### Decoding: words written out from R82 and R86 -/

/-- E1 to E4 of 95_test_vectors.md. -/
theorem test_decode_cmd :
    decodeTableWord 32 0b00000000000000000000000000000001 = some (.encrypt 0) ∧
    decodeTableWord 32 0b00000000000000000000000000000010 = some (.decrypt 0) ∧
    decodeTableWord 32 0xffffff02 = some (.decrypt 0xffffff) ∧ decodeTableWord 32 0x00000100 = none ∧
    decodeTableWord 32 0 = none ∧ decodeTableWord 32 3 = none := by decide +kernel

theorem test_decode_phases_low :
    decodeTableWord 5 0b00000 = some .idle ∧ decodeTableWord 5 0b00001 = some .check ∧
    decodeTableWord 5 0b00010 = some .hcLoad ∧ decodeTableWord 5 0b00011 = some .hcRound ∧
    decodeTableWord 5 0b00100 = some .hcOut ∧ decodeTableWord 5 0b00101 = some .blkLoad ∧
    decodeTableWord 5 0b00110 = some .blkRound ∧ decodeTableWord 5 0b00111 = some .blkOut ∧
    decodeTableWord 5 0b01000 = some .otk ∧ decodeTableWord 5 0b01001 = some .xor := by decide +kernel

theorem test_decode_phases_high :
    decodeTableWord 5 0b01010 = some .macInit ∧ decodeTableWord 5 0b01011 = some .macAad ∧
    decodeTableWord 5 0b01100 = some .macData ∧ decodeTableWord 5 0b01101 = some .macLen ∧
    decodeTableWord 5 0b01110 = some .macFinal ∧ decodeTableWord 5 0b01111 = some .tagOut ∧
    decodeTableWord 5 0b10000 = some .tagCmp ∧ decodeTableWord 5 0b10001 = some .failErase ∧
    decodeTableWord 5 0b10010 = some .wipe ∧ decodeTableWord 5 0b10011 = none ∧
    decodeTableWord 5 0b11111 = none := by decide +kernel

/-- Bytes that are no code are refused by name (R80, R86). -/
theorem test_decode_bytes_refused :
    decodeBytes [0x20] = .error (.notAPhaseCode 0x20) ∧ decodeBytes [] = .error (.badLength 0) ∧
    decodeBytes [1, 2] = .error (.badLength 2) ∧ decodeBytes [0x13] = .error (.reservedPhase 0x13) ∧
    decodeBytes [0x03, 0, 0, 0] = .error (.illegalOpcode 3) := by decide +kernel

/-- The register offsets (R81). -/
theorem test_decode_offsets :
    decodeRegOffset 0x3C = .ok (.key 7) ∧ decodeRegOffset 0x54 = .ok (.xnonce 5) ∧
    decodeRegOffset 0x6C = .ok (.tag 3) ∧ decodeRegOffset 0x0C = .ok .reserved ∧
    decodeRegOffset 0x80 = .error (.noSuchRegister 0x80) ∧ decodeRegOffset 0x02 = .error (.noSuchRegister 2) := by
  decide +kernel

/-- A placed word is what the next step runs (log entry 8). -/
theorem test_withFetchWord :
    nextIs (step (State.reset.withFetchWord 5 2)) (fun t => t.phase == Phase.hcRound) = true ∧
    nextIs (step (State.reset.withFetchWord 32 0xffffff02)) (fun t => t.opc == 2 && t.phase == Phase.check) = true := by
  decide +kernel

/-! ### The word primitives and function forms (40_word_primitives.md, 95_test_vectors.md 2.1 to 2.5) -/

/-- W1. -/
theorem test_add32 : nextIs (exec (.add32 0x77777777 0x01234567) State.reset) (fun t => t.fnOut == .word 0x789abcde) = true := by decide +kernel

/-- W2. -/
theorem test_add32_wraps : nextIs (exec (.add32 0xffffffff 1) State.reset) (fun t => t.fnOut == .word 0) = true := by decide +kernel

/-- W4. -/
theorem test_xor32 : nextIs (exec (.xor32 0x01020304 0x789abcde) State.reset) (fun t => t.fnOut == .word 0x7998bfda) = true := by decide +kernel

/-- W6. -/
theorem test_rotl32 : nextIs (exec (.rotl32 0x7998bfda 7) State.reset) (fun t => t.fnOut == .word 0xcc5fed3c) = true := by decide +kernel

/-- W9. -/
theorem test_rotl32_ends : nextIs (exec (.rotl32 0x80000001 12) State.reset) (fun t => t.fnOut == .word 0x00001800) = true := by decide +kernel

/-- Q5. -/
theorem test_qr : nextIs (exec (.qr 0x11111111 0x01020304 0x9b8d6f43 0x01234567) State.reset) (fun t => t.fnOut == .quad 0xea2a92f4 0xcb1cf8ce 0x4581472e 0x5881c4bb) = true := by decide +kernel

/-- Q4. -/
theorem test_qr_ones : nextIs (exec (.qr 0xffffffff 0xffffffff 0xffffffff 0xffffffff) State.reset) (fun t => t.fnOut == .quad 0xf0000ffd 0x88790878 0x0110fdef 0x010ffdf0) = true := by decide +kernel

/-- R104. -/
theorem test_colround : nextIs (exec (.colround countWords) State.reset) (fun t => t.fnOut == .words (hexWords
      0x8000c004b000c0066000c0085000c00a64624444e5e35cdd63643533e2e52daa08c804880bcb06b906c6086a05c50a5b08c004800bc006b006c0086005c00a50)) = true := by decide +kernel

/-- R105. -/
theorem test_diaground : nextIs (exec (.diaground countWords) State.reset) (fun t => t.fnOut == .words (hexWords
      0xa000f005b000d0074000f0099000d007ecebcccc7d7ad555edebdddd7a7ca42204f4094809d907990afa05aa0bdb07bb0bd007b004f0094009d007900af005a0)) = true := by decide +kernel

/-- R106. -/
theorem test_doubleround : nextIs (exec (.doubleround countWords) State.reset) (fun t => t.fnOut == .words (hexWords
      0xa9295c6ab471be7a38e65ec474348b87f1ad76c67b44627b946682b0f12f4910d7e22f803232ddd4b5b3b74dc0240444c8a5de45e417e1d31a392478983c4ebf)) = true := by decide +kernel

/-- The initial state of B1 (R121). -/
def blockStart : CipherState := hexWords
  0x617078653320646e79622d326b20657403020100070605040b0a09080f0e0d0c13121110171615141b1a19181f1e1d1c00000001090000004a00000000000000

/-- W after the twenty rounds of B1. -/
def blockEnd : CipherState := hexWords
  0x837778abe238d763a67ae21e5950bb2fc4f2d0c7fc62bb2f8fa018fc3f5ec7b7335271c2f29489f3eabda8fc82e46ebdd19c12b4b04e16de9e83d0cb4e3c50a2

/-- B1, line 20. -/
theorem test_perm20 : nextIs (exec (.perm20 blockStart) State.reset) (fun t => t.fnOut == .words blockEnd) = true := by decide +kernel

/-- B1, lines 1 and 2: a column round, then a diagonal round. -/
theorem test_roundstep :
    nextIs (runInstrs [.roundstep, .roundstep] (busyIn Phase.blkRound 1 0 0 { Scratch.zero with w := blockStart }))
      (fun t => t.scr.rnd == 2 && t.scr.w == hexWords
        0xcd52e91785ab03b4b3457395f96de7ddc4b7cd225c2e187ac95eb461316c801a7bf7d7407eddd644f1a1bdf5761246ca6b0d58a36798471ad737f167f173888d) = true := by decide +kernel

/-- The key of B1 and H1. -/
def keyB : Vector Byte 32 := hex 32 0x000102030405060708090a0b0c0d0e0f101112131415161718191a1b1c1d1e1f

/-- The block of B1. -/
def blockBytes : Vector Byte 64 := hex 64
  0x10f1e7e4d13b5915500fdd1fa32071c4c7d1f4c733c068030422aa9ac3d46c4ed2826446079faa0914c2d705d98b02a2b5129cd1de164eb9cbd083e8a2503c4e

/-- B1. -/
theorem test_chacha20Block : nextIs (exec (.chacha20Block keyB 1 (hex 12 0x000000090000004a00000000)) State.reset) (fun t => t.fnOut == .bytes blockBytes.toList) = true := by decide +kernel

/-- H1. -/
theorem test_hchacha20 : nextIs (exec (.hchacha20 keyB (hex 16 0x000000090000004a0000000031415927)) State.reset) (fun t => t.fnOut == .bytes (hex 32
      0x82413b4227b27bfed30e42508a877d73a0f9e4d58a74a853c12ec41326d3ecdc).toList) = true := by decide +kernel

/-- X2, length 1. -/
theorem test_xchacha20Xor : nextIs (exec (.xchacha20Xor keyA nonceA [0]) State.reset) (fun t => t.fnOut == .bytes [0xf1]) = true := by decide +kernel

/-- X2, length 65. -/
theorem test_xchacha20Xor_65 : nextIs (exec (.xchacha20Xor keyA nonceA ((List.range 65).map (BitVec.ofNat 8))) State.reset) (fun t => t.fnOut == .bytes (hex 65
      0xf10d71f75ff5f25df31b7dd8faa3935a2256607d11518afbd2a3ef175e4813d7201d325e0f48b95a19facb6242be7075f1209827980e924796ddad6c415baa0201).toList) = true := by decide +kernel

/-- X1. -/
theorem test_xchacha20PolyKey : nextIs (exec (.xchacha20PolyKey keyA nonceA) State.reset) (fun t => t.fnOut == .bytes (hex 32
      0x7b191f80f361f099094f6f4b8fb97df847cc6873a8f2b190dd73807183f907d5).toList) = true := by decide +kernel

/-- The one-time key of V1. -/
def otkV : Vector Byte 32 := hex 32 0x85d6be7857556d337f4452fe42d506a80103808afb0db2fd4abff6af4149f51b

/-- V1, the document's own vector. -/
theorem test_poly1305Mac : nextIs (exec (.poly1305Mac otkV (hex 34 0x43727970746f6772617068696320466f72756d2052657365617263682047726f7570).toList) State.reset) (fun t => t.fnOut == 
      .bytes (hex 16 0xa8061dc1305136c6c22b8baf0c0127a9).toList) = true := by decide +kernel

/-- M5. -/
theorem test_poly1305Mac_reduction : nextIs (exec (.poly1305Mac (hex 32 0x0200000000000000000000000000000000000000000000000000000000000000) (List.replicate 16 0xff)) State.reset) (fun t => t.fnOut == 
      .bytes (hex 16 0x03000000000000000000000000000000).toList) = true := by decide +kernel

/-- R194. -/
theorem test_macInput : nextIs (exec (.macInput (hex 12 0x50515253c0c1c2c3c4c5c6c7).toList [0xaa, 0xbb]) State.reset) (fun t => t.fnOut == .bytes (hex 48
      0x50515253c0c1c2c3c4c5c6c700000000aabb00000000000000000000000000000c000000000000000200000000000000).toList) = true := by decide +kernel

/-! ### The commands and the unit operations -/

/-- E1, E6, P1 step 0. -/
theorem test_encrypt :
    nextIs (exec (.encrypt 0) (idleWith 0 0))
      (fun t => t.opc == 1 && t.status.toWord == 0x00000001 && t.phase == Phase.check) = true := by decide +kernel

/-- E3. -/
theorem test_decrypt :
    nextIs (exec (.decrypt 0xffffff) (idleWith 0 0))
      (fun t => t.opc == 2 && t.status.toWord == 0x00000001 && t.phase == Phase.check) = true := by decide +kernel

/-- R190: ignored while busy. -/
theorem test_encrypt_busy :
    nextIs (exec (.encrypt 0) (busyIn Phase.wipe 2 0 0 Scratch.zero))
      (fun t => t == busyIn Phase.wipe 2 0 0 Scratch.zero) = true := by decide +kernel

/-- R202. -/
theorem test_idle :
    nextIs (exec .idle (idleWith 0 0))
      (fun t => t == idleWith 0 0) = true := by decide +kernel

/-- F2. -/
theorem test_check_key_size :
    nextIs (exec .check { busyIn Phase.check 1 12 114 Scratch.zero with sizes := Sizes.ofWord 0x00101810 })
      (fun t => t.status.err == 2 && t.status.errInfo == 2 && t.phase == Phase.wipe) = true := by decide +kernel

/-- F8: the first failing test wins. -/
theorem test_check_order :
    nextIs (exec .check { busyIn Phase.check 0 12 114 Scratch.zero with sizes := Sizes.ofWord 0 })
      (fun t => t.status.err == 2 && t.status.errInfo == 1 && t.phase == Phase.wipe) = true := by decide +kernel

/-- W after the twenty rounds of H1. -/
def hcEnd : CipherState := hexWords
  0x423b4182fe7bb22750420ed3737d878a0aa764487954cdf3846acd377b3c58ad77e3558383e77c12e0076a2dbc6cd0e5d5e4f9a053a8748a13c42ec1dcecd326

/-- R141. -/
theorem test_hcLoad :
    nextIs (exec .hcLoad { busyIn Phase.hcLoad 1 0 0 Scratch.zero with
      key := keyB, xnonce := hex 24 0x000000090000004a0000000031415927a0a1a2a3a4a5a6a7 })
      (fun t => t.phase == Phase.hcRound && t.scr.w == hexWords
        0x617078653320646e79622d326b20657403020100070605040b0a09080f0e0d0c13121110171615141b1a19181f1e1d1c090000004a0000000000000027594131) = true := by decide +kernel

/-- R142, R105: the twentieth round is a diagonal round and leaves the phase. -/
theorem test_hcRound_last :
    nextIs (exec .hcRound (busyIn Phase.hcRound 1 0 0 { Scratch.zero with w := countWords, rnd := 19 }))
      (fun t => t.phase == Phase.hcOut && t.scr.rnd == 20 && t.scr.w == hexWords
        0xa000f005b000d0074000f0099000d007ecebcccc7d7ad555edebdddd7a7ca42204f4094809d907990afa05aa0bdb07bb0bd007b004f0094009d007900af005a0) = true := by decide +kernel

/-- R143, R151. -/
theorem test_hcOut :
    nextIs (exec .hcOut { busyIn Phase.hcOut 1 0 1 { Scratch.zero with rnd := 20, w := hcEnd } with xnonce := nonceA })
      (fun t => t.scr.ctr == 1 && t.scr.w == zeroWords && t.scr.cnonce == hex 12 0x000000005051525354555657 &&
        t.scr.subkey == hex 32 0x82413b4227b27bfed30e42508a877d73a0f9e4d58a74a853c12ec41326d3ecdc) = true := by decide +kernel

/-- R143: DECRYPT starts with the one-time-key block. -/
theorem test_hcOut_decrypt :
    nextIs (exec .hcOut (busyIn Phase.hcOut 2 0 1 { Scratch.zero with rnd := 20 }))
      (fun t => t.scr.ctr == 0 && t.phase == Phase.blkLoad) = true := by decide +kernel

/-- R121, R122. -/
theorem test_blkLoad :
    nextIs (exec .blkLoad (busyIn Phase.blkLoad 1 0 1 { Scratch.zero with
      subkey := keyB, ctr := 1, cnonce := hex 12 0x000000090000004a00000000 }))
      (fun t => t.scr.w == blockStart && t.scr.s0 == blockStart && t.phase == Phase.blkRound) = true := by decide +kernel

/-- B1, line 1. -/
theorem test_blkRound :
    nextIs (exec .blkRound (busyIn Phase.blkRound 1 0 1 { Scratch.zero with w := blockStart }))
      (fun t => t.phase == Phase.blkRound && t.scr.rnd == 1 && t.scr.w == hexWords
        0xabbaa25c1efa51ea7354fbdf83d2dc693a4651961c7e64f6b12fb628f05b69766b3ca45408eb14b1bf8a9ac9e444df3bdec62ed28862cc776e35b34552a647f1) = true := by decide +kernel

/-- B1, lines 19 and 20 ("the number is RND after the step"): RND is 20 after the twentieth step. -/
theorem test_blkRound_last :
    nextIs (exec .blkRound (busyIn Phase.blkRound 1 0 1 { Scratch.zero with
      rnd := 19
      w := hexWords
        0x8a07ff150cadc51c017c8da94afbe5df913768fe442a0c0c598fe3bb47d188280a39aedcc14280297b48135f5a5f10982d4cfe3ee5466d1be4ccdc138ac92a18 }))
      (fun t => t.phase == Phase.blkOut && t.scr.rnd == 20 && t.scr.w == blockEnd) = true := by decide +kernel

/-- B1. -/
theorem test_blkOut :
    nextIs (exec .blkOut (busyIn Phase.blkOut 1 0 1 { Scratch.zero with
      w := blockEnd, s0 := blockStart, rnd := 20, ctr := 1 }))
      (fun t => t.phase == Phase.xor && t.scr.w == zeroWords && t.scr.s0 == zeroWords && t.scr.ks == blockBytes) = true := by decide +kernel

/-- R154. -/
theorem test_otk :
    nextIs (exec .otk (busyIn Phase.otk 1 0 0 { Scratch.zero with ks := blockBytes }))
      (fun t => t.scr.ks == zeroBytes 64 && t.phase == Phase.macInit && t.scr.otk == hex 32
        0x10f1e7e4d13b5915500fdd1fa32071c4c7d1f4c733c068030422aa9ac3d46c4e) = true := by decide +kernel

/-- P7: one byte, ENCRYPT. -/
theorem test_xor :
    nextIs (exec .xor (busyIn Phase.xor 1 0 1 { Scratch.zero with ks := hex 64 (0x78 * 256 ^ 63 + 1), ctr := 1 }))
      (fun t => t.dbuf == [(0, 0x78)] && t.scr.ks == zeroBytes 64 && t.scr.pos == 1 && t.scr.ctr == 0 &&
        t.phase == Phase.blkLoad) = true := by decide +kernel

/-- R155: DLEN = 65, the first step. -/
theorem test_xor_next_chunk :
    nextIs (exec .xor { busyIn Phase.xor 2 0 65 { Scratch.zero with ks := Vector.replicate 64 0xff, ctr := 1 } with
      dbuf := [(63, 0xf0), (64, 0x77)] })
      (fun t => t.dbuf.read 0 == 0xff && t.dbuf.read 63 == 0x0f && t.dbuf.read 64 == 0x77 && t.scr.pos == 64 &&
        t.scr.ctr == 2 && t.phase == Phase.blkLoad) = true := by decide +kernel

/-- R176. -/
theorem test_macInit :
    nextIs (exec .macInit (busyIn Phase.macInit 1 0 1 { Scratch.zero with otk := otkV }))
      (fun t => t.scr.r == 0x0806d5400e52447c036d555408bed685 && t.scr.s == 0x1bf54941aff6bf4afdb20dfb8a800301 &&
        t.phase == Phase.macData) = true := by decide +kernel

/-- R177. -/
theorem test_macAbsorb16 :
    nextIs (exec (.macAbsorb16 (hex 16 0x43727970746f6772617068696320466f)) (busyIn Phase.macLen 1 0 0 { Scratch.zero with
      r := 0x0806d5400e52447c036d555408bed685 }))
      (fun t => t.scr.acc == 0x2c88c77849d64ae9147ddeb88e69c83fc) = true := by decide +kernel

/-- P1 step 94. -/
theorem test_macAad :
    nextIs (exec .macAad { busyIn Phase.macAad 1 12 114 { Scratch.zero with r := 0x087db98c0b6f4f0809f061f0001f197b } with
      abuf := Memory.writeBytes [] 0 (hex 12 0x50515253c0c1c2c3c4c5c6c7).toList })
      (fun t => t.scr.acc == 0x2b9081c95dbce3c3abe5dc3a9760869c2 && t.scr.mpos == 0 && t.phase == Phase.macData) = true := by decide +kernel

/-- P7, MAC_DATA. -/
theorem test_macData :
    nextIs (exec .macData { busyIn Phase.macData 1 0 1 { Scratch.zero with r := 0x0cfda8a400de929001013fbc082ad0bc } with
      dbuf := [(0, 0x78)] })
      (fun t => t.scr.acc == 0x227241fad696aeab479d76fcede475d10 && t.phase == Phase.macLen) = true := by decide +kernel

/-- P1 step 103. -/
theorem test_macLen :
    nextIs (exec .macLen (busyIn Phase.macLen 1 12 114 { Scratch.zero with
      r := 0x087db98c0b6f4f0809f061f0001f197b, acc := 0x080c3a826af6e700e074515d99756ff1a }))
      (fun t => t.scr.acc == 0x074c710f5672f6a69e8e6d518b0f0bb79 && t.phase == Phase.macFinal &&
        t.scr.lenblk == hex 16 0x0c000000000000007200000000000000) = true := by decide +kernel

/-- R174, R178. -/
theorem test_macFinal :
    nextIs (exec .macFinal (busyIn Phase.macFinal 1 0 0 { Scratch.zero with
      acc := 0x28d31b7caff946c77c8844335369d03a7, s := 0x1bf54941aff6bf4afdb20dfb8a800301 }))
      (fun t => t.scr.ctag == hex 16 0xa8061dc1305136c6c22b8baf0c0127a9 && t.scr.acc == 0 && t.phase == Phase.tagOut) = true := by decide +kernel

/-- P1 step 105. -/
theorem test_tagOut :
    nextIs (exec .tagOut (busyIn Phase.tagOut 1 0 0 { Scratch.zero with ctag := hex 16 0xc0875924c1c7987947deafd8780acf49 }))
      (fun t => t.tag == hex 16 0xc0875924c1c7987947deafd8780acf49 && t.phase == Phase.wipe) = true := by decide +kernel

/-- R200, P3 step 59. -/
theorem test_tagCmp_differs :
    nextIs (exec .tagCmp { busyIn Phase.tagCmp 2 0 1 { Scratch.zero with
      ctag := hex 16 0xc0875924c1c7987947deafd8780acf49 } with tag := hex 16 0xc0875924c1c7987947deafd8780acf48 })
      (fun t => t.scr.diff == 0x01 && t.status.err == 1 && t.scr.ctr == 0 && t.phase == Phase.failErase) = true := by decide +kernel

/-- P2 step 59. -/
theorem test_tagCmp_equal :
    nextIs (exec .tagCmp { busyIn Phase.tagCmp 2 0 1 { Scratch.zero with ctag := hex 16 7 } with tag := hex 16 7 })
      (fun t => t.scr.diff == 0 && t.status.err == 0 && t.scr.ctr == 1 && t.phase == Phase.blkLoad) = true := by decide +kernel

/-- R201. -/
theorem test_failErase :
    nextIs (exec .failErase { busyIn Phase.failErase 2 0 3 Scratch.zero with
      dbuf := [(0, 0xaa), (1, 0xbb), (2, 0xcc), (3, 0xdd)] })
      (fun t => t.dbuf == [(3, 0xdd)] && t.phase == Phase.wipe) = true := by decide +kernel

/-- R214, E8. -/
theorem test_wipe :
    nextIs (exec .wipe { busyIn Phase.wipe 2 0 0 { Scratch.zero with r := 5, ctag := hex 16 7 } with
      key := keyA, status := { busy := true, done := false, err := 1, errInfo := 0 } })
      (fun t => t.scr == Scratch.zero && t.key == zeroBytes 32 && t.status.toWord == 0x00000006 && t.phase == Phase.idle) = true := by decide +kernel

/-! ### Witnesses: each hypothesis of a statement is met, at the edges of its range -/

theorem wit_LittleEndianOrder :
    (0 : Nat) < 4 ∧ (3 : Nat) < 4 ∧ (0 : Nat) < 1 ∧ (15 : Nat) < 16 ∧ (0 : Nat) < 256 ^ 0 ∧ 2 ^ 64 - 1 < 256 ^ 8 := by
  decide

theorem wit_WordAddAndXor : (0 : Nat) < 32 ∧ (31 : Nat) < 32 := by decide

theorem wit_RotateLeft : 16 ∈ [16, 12, 8, 7] ∧ 7 ∈ [16, 12, 8, 7] ∧ (0 : Nat) < 32 ∧ (31 : Nat) < 32 := by decide

theorem wit_RoundGroups :
    ((3 : Fin 16), (7 : Fin 16), (11 : Fin 16), (15 : Fin 16)) ∈ columnLanes ∧
    ((3 : Fin 16), (4 : Fin 16), (9 : Fin 16), (14 : Fin 16)) ∈ diagonalLanes ∧
    columnLanes.reverse.Perm [(0, 4, 8, 12), (1, 5, 9, 13), (2, 6, 10, 14), (3, 7, 11, 15)] ∧
    diagonalLanes.reverse.Perm [(0, 5, 10, 15), (1, 6, 11, 12), (2, 7, 8, 13), (3, 4, 9, 14)] := by decide

/-- The empty data, and the first byte of a second chunk, where the chunk is one byte long. -/
theorem wit_XChaCha20XorFunction :
    (List.replicate 0 (0 : Byte)).length ≤ (2 ^ 32 - 1) * 64 ∧ (List.replicate 65 (0 : Byte)).length ≤ (2 ^ 32 - 1) * 64 ∧
    64 * 0 + (63 : Fin 64).val < (List.replicate 65 (0 : Byte)).length ∧
    64 * 1 + (0 : Fin 64).val < (List.replicate 65 (0 : Byte)).length := by decide

/-- The longest data. -/
theorem wit_XChaCha20XorFunction_longest :
    (List.replicate ((2 ^ 32 - 1) * 64) (0 : Byte)).length ≤ (2 ^ 32 - 1) * 64 := by
  rw [List.length_replicate]

theorem wit_KeySplitAndClamp :
    28 ∈ [28, 29, 30, 31, 32, 33, 60, 61, 62, 63, 64, 65, 92, 93, 94, 95, 96, 97, 124, 125, 126, 127] ∧
    (123 : Nat) < 128 ∧
    123 ∉ [28, 29, 30, 31, 32, 33, 60, 61, 62, 63, 64, 65, 92, 93, 94, 95, 96, 97, 124, 125, 126, 127] := by decide

/-- A message of 17 bytes has a full block and a block of one byte. -/
theorem wit_PolyBlockValue :
    0 < blockCount (List.replicate 17 (1 : Byte)).length ∧ 0 + 1 < blockCount (List.replicate 17 (1 : Byte)).length ∧
    1 < blockCount (List.replicate 17 (1 : Byte)).length ∧ ¬ 1 + 1 < blockCount (List.replicate 17 (1 : Byte)).length ∧
    1 ≤ [(5 : Byte)].length ∧ [(5 : Byte)].length ≤ 16 ∧ (List.replicate 16 (5 : Byte)).length = 16 := by decide

theorem wit_AbsorbAndTag : polyP - 1 < 2 ^ 130 ∧ 2 ^ 129 - 1 < 2 ^ 129 ∧ 2 ^ 124 - 1 < 2 ^ 124 := by
  refine ⟨?_, ?_, ?_⟩ <;> norm_num [polyP]

/-- The first block, a block after another, the shortest and the longest block, and a key whose multiplier is zero. -/
theorem wit_Poly1305Function :
    ([] : List Byte).length % 16 = 0 ∧ (List.replicate 16 (1 : Byte)).length % 16 = 0 ∧ 1 ≤ [(5 : Byte)].length ∧
    (List.replicate 16 (5 : Byte)).length ≤ 16 ∧ macR (Vector.replicate 32 0) = 0 := by decide +kernel

theorem wit_MacFraming :
    [(1 : Byte)].length < 2 ^ 64 ∧ ([] : List Byte).length < 2 ^ 64 ∧ (List.replicate 16 (1 : Byte)).length % 16 = 0 := by
  decide

theorem wit_PureRowsComplete : quarterRound 0 0 0 0 = (0, 0, 0, 0) := by decide

theorem wit_RoundPhases :
    (Instr.blkRound, Phase.blkOut) ∈ [(Instr.blkRound, Phase.blkOut), (Instr.hcRound, Phase.hcOut)] ∧
    (Instr.hcRound, Phase.hcOut) ∈ [(Instr.blkRound, Phase.blkOut), (Instr.hcRound, Phase.hcOut)] ∧
    (busyIn Phase.blkRound 1 0 0 Scratch.zero).scr.rnd = 0 ∧ (19 : Nat) < 20 := by decide

theorem wit_HcOut :
    ((busyIn Phase.hcOut 1 0 1 Scratch.zero).opc = 0x01 ∧ 0 < (busyIn Phase.hcOut 1 0 1 Scratch.zero).dlen.toNat) ∧
    ¬ ((busyIn Phase.hcOut 1 0 0 Scratch.zero).opc = 0x01 ∧ 0 < (busyIn Phase.hcOut 1 0 0 Scratch.zero).dlen.toNat) ∧
    ¬ ((busyIn Phase.hcOut 2 0 1 Scratch.zero).opc = 0x01 ∧ 0 < (busyIn Phase.hcOut 2 0 1 Scratch.zero).dlen.toNat) := by
  decide

/-- A whole chunk with more to come, then the one byte left, in each command; the data fills the buffer. -/
theorem wit_XorChunk :
    let a := { busyIn Phase.xor 1 0 65 { Scratch.zero with ctr := 1 } with dbuf := [(0, 1), (64, 2)] }
    let b := { busyIn Phase.xor 1 0 1024 { Scratch.zero with ctr := 16, pos := 960 } with dbuf := [(1023, 2)] }
    let c := { busyIn Phase.xor 2 0 65 { Scratch.zero with ctr := 2, pos := 64 } with dbuf := [(64, 2)] }
    (a.dbuf.wf ∧ a.scr.pos.toNat < a.dlen.toNat ∧ a.dlen.toNat ≤ a.params.dbufCap ∧
      nextIs (exec .xor a) (fun t => decide (t.scr.pos.toNat < a.dlen.toNat)) = true) ∧
    (b.dbuf.wf ∧ b.scr.pos.toNat < b.dlen.toNat ∧ b.dlen.toNat ≤ b.params.dbufCap ∧ b.opc = 0x01 ∧
      nextIs (exec .xor b) (fun t => t.scr.pos.toNat == b.dlen.toNat) = true) ∧
    (c.dbuf.wf ∧ c.scr.pos.toNat < c.dlen.toNat ∧ c.dlen.toNat ≤ c.params.dbufCap ∧ c.opc ≠ 0x01 ∧
      nextIs (exec .xor c) (fun t => t.scr.pos.toNat == c.dlen.toNat) = true) := by decide +kernel

/-- An XOR step of the invariant, with a second chunk to come. -/
theorem wit_XorChunk_position :
    let s := { busyIn Phase.xor 1 0 65 { Scratch.zero with ctr := 1 } with dbuf := [(0, 1), (64, 2)] }
    s.Inv ∧ s.phase = Phase.xor ∧ s.scr.pos.toNat + 64 < s.dlen.toNat := by
  refine ⟨⟨?_, ?_, ?_, ?_, ?_, ?_, ?_, ?_, ?_, ?_, ?_⟩, ?_, ?_⟩ <;> decide +kernel

theorem wit_WipeErases :
    (busyIn Phase.wipe 1 0 0 { Scratch.zero with r := 4 }).status.busy = true ∧
    nextIs (step (busyIn Phase.wipe 1 0 0 { Scratch.zero with r := 4 })) (fun t => !t.status.busy) = true := by
  decide +kernel

/-- A block with more to come and the last block, of one byte, the AAD filling the buffer. -/
theorem wit_MacAad :
    let a := busyIn Phase.macAad 1 17 0 Scratch.zero
    let b := busyIn Phase.macAad 1 1024 0 { Scratch.zero with mpos := 1023 }
    (a.scr.mpos.toNat < a.alen.toNat ∧ a.alen.toNat ≤ a.params.abufCap ∧
      a.scr.mpos.toNat + min 16 (a.alen.toNat - a.scr.mpos.toNat) < a.alen.toNat) ∧
    (b.scr.mpos.toNat < b.alen.toNat ∧ b.alen.toNat ≤ b.params.abufCap ∧
      b.scr.mpos.toNat + min 16 (b.alen.toNat - b.scr.mpos.toNat) = b.alen.toNat) ∧
    (a.status.busy = true ∧ a.script = [] ∧ a.phase = Phase.macAad ∧ a.scr.mpos = 0 ∧ 0 < a.alen.toNat ∧
      1 < (a.alen.toNat + 15) / 16) := by decide

/-- The MAC phases in states of the invariant, on the last byte of each segment. -/
theorem wit_MacAad_entry :
    (busyIn Phase.macAad 1 1024 0 { Scratch.zero with mpos := 1023 }).Inv ∧
    (busyIn Phase.macData 2 0 1024 { Scratch.zero with mpos := 1023 }).Inv := by
  refine ⟨⟨?_, ?_, ?_, ?_, ?_, ?_, ?_, ?_, ?_, ?_, ?_⟩, ⟨?_, ?_, ?_, ?_, ?_, ?_, ?_, ?_, ?_, ?_, ?_⟩⟩ <;> decide +kernel

/-- A data block with more to come and the last block, of one byte. -/
theorem wit_MacData :
    let a := busyIn Phase.macData 1 0 17 Scratch.zero
    let b := busyIn Phase.macData 2 0 1024 { Scratch.zero with mpos := 1023 }
    (a.scr.mpos.toNat < a.dlen.toNat ∧ a.dlen.toNat ≤ a.params.dbufCap ∧
      a.scr.mpos.toNat + min 16 (a.dlen.toNat - a.scr.mpos.toNat) < a.dlen.toNat) ∧
    (b.scr.mpos.toNat < b.dlen.toNat ∧ b.dlen.toNat ≤ b.params.dbufCap ∧
      b.scr.mpos.toNat + min 16 (b.dlen.toNat - b.scr.mpos.toNat) = b.dlen.toNat) ∧
    (a.status.busy = true ∧ a.script = [] ∧ a.phase = Phase.macData ∧ a.scr.mpos = 0 ∧ 0 < a.dlen.toNat ∧
      1 < (a.dlen.toNat + 15) / 16) := by decide

/-- Equal tags with and without data, and tags that differ in one bit. -/
theorem wit_TagCompare :
    nextIs (exec .tagCmp (busyIn Phase.tagCmp 2 0 1 Scratch.zero)) (fun t => t.scr.diff == 0) = true ∧
    nextIs (exec .tagCmp (busyIn Phase.tagCmp 2 0 0 Scratch.zero)) (fun t => t.scr.diff == 0) = true ∧
    nextIs (exec .tagCmp (busyIn Phase.tagCmp 2 0 0 { Scratch.zero with ctag := hex 16 0x80 }))
      (fun t => t.scr.diff != 0) = true := by decide +kernel

theorem wit_FailErase :
    (busyIn Phase.failErase 2 0 1024 Scratch.zero).dbuf.wf ∧
    (busyIn Phase.failErase 2 0 1024 Scratch.zero).dlen.toNat ≤ (busyIn Phase.failErase 2 0 1024 Scratch.zero).params.dbufCap := by
  decide

/-- CHECK's answer, as the number it records (0: it passed). -/
def checkAnswer (s : State) : Option (BitVec 4) :=
  match exec .check s with
  | .next t => if t.phase = Phase.hcLoad then some 0 else some t.status.errInfo
  | .fault _ => none
  | .refused _ => none

/-- The core busy in CHECK with both capacities `cap`. -/
def checking (cap : Nat) (opc : Byte) (sizes : Word) (alen dlen : BitVec 64) : State :=
  { busyIn Phase.check opc alen dlen Scratch.zero with
    sizes := Sizes.ofWord sizes, params := { Config.reference with abufCap := cap, dbufCap := cap } }

/-- Each contract test at the edge of its range, both sides (R191; F1 to F8). -/
theorem wit_ContractChecks :
    [checking 1024 1 0x00101820 1024 1024, checking 1024 2 0x00101820 0 0, checking 1024 0 0x00101820 0 0,
     checking 1024 3 0x00101820 0 0, checking 1024 1 0x0010181f 0 0, checking 1024 1 0x00101821 0 0,
     checking 1024 1 0x00101720 0 0, checking 1024 1 0x00101920 0 0, checking 1024 1 0x000f1820 0 0,
     checking 1024 1 0x00111820 0 0, checking 1024 1 0x00101820 1025 0, checking 1024 1 0x00101820 0 1025,
     checking (2 ^ 63) 1 0x00101820 0 274877906880, checking (2 ^ 63) 1 0x00101820 0 274877906881].map checkAnswer =
    [some 0, some 0, some 1, some 1, some 2, some 2, some 3, some 3, some 4, some 4, some 5, some 6, some 0, some 6] ∧
    (checking 1024 0 0 0 0).phase = Phase.check ∧ (checking 1024 0 0 0 0).status.busy = true ∧
    (checking 1024 0 0 0 0).script = [] := by decide +kernel

theorem wit_IdleLeftByStart :
    (idleWith 0 0).status.busy = false ∧ (idleWith 0 0).script = [] ∧
    nextIs (step { idleWith 0 0 with script := [.wr 0x00 0xff] }) (fun t => t.status.busy) = true := by decide +kernel

theorem wit_StartCommand :
    ((idleWith 0 0).PhaseNamed ∧ (idleWith 0 0).status.busy = false) ∧
    ((busyIn Phase.wipe 1 0 0 Scratch.zero).PhaseNamed ∧ (busyIn Phase.wipe 1 0 0 Scratch.zero).status.busy = true) := by
  decide

/-- The state after reset with the legal descriptor of the shortest and of the longest segments is ready. -/
theorem wit_Ready (n : BitVec 64) (h : n = 0 ∨ n = 1024) :
    (idleWith n n).Ready ∧ (idleWith n n).operandsLegal ∧ (idleWith n n).script = [] := by
  rcases h with rfl | rfl
  all_goals
    refine ⟨⟨⟨?_, ?_, ?_, ?_, ?_, ?_, ?_, ?_, ?_, ?_, ?_⟩, ?_⟩, ?_, ?_⟩ <;> decide +kernel

theorem wit_IllegalOpcode :
    (0x00000100 : Word).toNat % 256 ≠ 1 ∧ (0x00000100 : Word).toNat % 256 ≠ 2 ∧
    (0xffffff03 : Word).toNat % 256 ≠ 1 ∧ (0xffffff03 : Word).toNat % 256 ≠ 2 := by decide

/-- Each named stop happens, at the first value that stops. -/
theorem wit_NamedStops :
    faultIs (step (busyIn 19 1 0 0 Scratch.zero)) .reservedPhase = true ∧
    faultIs (step { idleWith 0 0 with phase := 19 }) .reservedPhase = true ∧
    faultIs (step { idleWith 0 0 with phase := 31, script := [.wr 0 1] }) .reservedPhase = true ∧
    nextIs (step (busyIn Phase.wipe 1 0 0 Scratch.zero)) (fun _ => true) = true ∧
    refusedIs (step { busyIn Phase.check 1 0 0 Scratch.zero with script := [.wrb .abuf 0 []] })
      .bufferAccessWhileBusy = true ∧
    refusedIs (step { idleWith 0 0 with script := [.rd 0x80] }) .noSuchRegister = true ∧
    refusedIs (step { idleWith 0 0 with script := [.wr 0x01 0] }) .noSuchRegister = true ∧
    faultIs (step { idleWith 0 0 with script := [.rdb .dbuf 1024 1] }) .outsideBuffer = true ∧
    faultIs (exec .xor (busyIn Phase.xor 1 0 1025 { Scratch.zero with pos := 1024 })) .outsideBuffer = true ∧
    faultIs (exec .macAad (busyIn Phase.macAad 1 1025 0 { Scratch.zero with mpos := 1024 })) .outsideBuffer = true ∧
    faultIs (exec .macData (busyIn Phase.macData 1 0 1025 { Scratch.zero with mpos := 1024 })) .outsideBuffer = true ∧
    faultIs (exec .failErase (busyIn Phase.failErase 2 0 1025 Scratch.zero)) .outsideBuffer = true := by decide +kernel

/-- The empty access at the end of the buffer and the access to its last byte. -/
theorem wit_BufferAccess :
    1024 + 0 ≤ (idleWith 0 0).cap .abuf ∧ 1023 + [(7 : Byte)].length ≤ (idleWith 0 0).cap .dbuf ∧
    ((idleWith 0 0).buf .dbuf).wf ∧ (idleWith 0 0).status.busy = false ∧
    nextIs (step (busyIn Phase.hcLoad 1 0 0 Scratch.zero)) (fun _ => true) = true := by decide +kernel

theorem wit_OpcodeTables :
    (0xffffff01 : Word) &&& 0xff = 0x01 ∧ (0x00000002 : Word) &&& 0xff = 0x02 ∧ (0x00000103 : Word) &&& 0xff ≠ 0x01 ∧
    (0x00000103 : Word) &&& 0xff ≠ 0x02 ∧ 19 ≤ (19 : BitVec 5).toNat ∧ 19 ≤ (31 : BitVec 5).toNat ∧
    decode (.phase (busyIn Phase.wipe 1 0 0 Scratch.zero).phase) = .ok .wipe := by decide

theorem wit_DecodeEncodeAgree :
    encode (.decrypt 0xffffff) = some (.cmd 0xffffff02) ∧ encode .wipe = some (.phase 18) ∧
    decode (.phase 0) = .ok .idle := by decide

theorem wit_StepRunsDecoded :
    (busyIn Phase.check 1 0 0 Scratch.zero).status.busy = true ∧
    (busyIn Phase.check 1 0 0 Scratch.zero).status.done = false ∧
    decode (.phase (busyIn Phase.check 1 0 0 Scratch.zero).phase) = .ok .check ∧
    decode (.cmd 0x00000001) = .ok (.encrypt 0) ∧ decodeTableWord 32 (0x00000002 : Word).toNat = some (.decrypt 0) ∧
    decodeTableWord 5 (18 : BitVec 5).toNat = some .wipe := by decide +kernel

theorem wit_HostAccessTable :
    (idleWith 0 0).status.busy = false ∧ (busyIn Phase.check 1 0 0 Scratch.zero).status.busy = true ∧
    (31 : Fin 32) ≠ 1 ∧ 0x7C ∈ [0x04, 0x0C, 0x58, 0x5C, 0x70, 0x74, 0x78, 0x7C] ∧
    0 + 1024 ≤ (idleWith 0 0).cap .abuf := by decide

theorem wit_OperandAssembly : (idleWith 0 0).status.busy = false := by decide

/-- A command started without writing SIZES, both kinds of opcode. -/
theorem wit_ResetRegisters_start :
    (State.reset.status.busy = false ∧ State.reset.sizes = { klen := 0, nlen := 0, tlen := 0 }) ∧
    (0xffffff02 : Word).toNat % 256 = 2 ∧ (0x00000100 : Word).toNat % 256 ≠ 1 ∧ (0x00000100 : Word).toNat % 256 ≠ 2 := by
  decide

theorem wit_ResetRegisters : ({ busyIn Phase.xor 1 0 0 Scratch.zero with script := [.reset] } : State).script =
    HostMove.reset :: [] := by rfl

/-- A busy state in the middle of DECRYPT that meets the invariant, tags equal. -/
def comparing (dlen : BitVec 64) (tag : Vector Byte 16) : State :=
  { busyIn Phase.tagCmp 2 0 dlen { Scratch.zero with ctag := hex 16 7 } with tag := tag }

theorem wit_comparing : (comparing 1 (hex 16 7)).Inv ∧ (comparing 0 (hex 16 7)).Inv ∧ (comparing 1 (hex 16 8)).Inv := by
  refine ⟨?_, ?_, ?_⟩
  all_goals
    refine ⟨?_, ?_, ?_, ?_, ?_, ?_, ?_, ?_, ?_, ?_, ?_⟩ <;> decide +kernel

theorem wit_InvariantKept :
    nextIs (step (comparing 1 (hex 16 7))) (fun t => t.phase == Phase.blkLoad) = true ∧
    nextIs (step (comparing 1 (hex 16 8))) (fun t => t.phase == Phase.failErase) = true := by decide +kernel

theorem wit_IdleErasedKept :
    (idleWith 0 0).IdleErased ∧ (busyIn Phase.wipe 1 0 0 { Scratch.zero with r := 4 }).IdleErased ∧
    nextIs (step (busyIn Phase.wipe 1 0 0 { Scratch.zero with r := 4 })) (fun t => t.phase == Phase.idle) = true := by
  decide +kernel

theorem wit_CoreNeverStops : (comparing 1 (hex 16 7)).script = [] := by rfl

/-- The core's step in every phase, from a state of that phase. -/
theorem wit_CoreStepFrame :
    [1, 2, 3, 4, 5, 6, 7, 8, 9, 10, 11, 12, 13, 14, 15, 16, 17, 18].all (fun n =>
      let s := busyIn (BitVec.ofNat 5 n) 1 1 1 Scratch.zero
      s.status.busy && s.script.isEmpty && nextIs (step s) fun _ => true) = true := by decide +kernel

/-- Every row of the transition table is taken by some step. -/
theorem wit_TransitionTable :
    [(busyIn Phase.check 0 0 0 Scratch.zero, Phase.wipe), (busyIn Phase.check 1 0 0 Scratch.zero, Phase.hcLoad),
     (busyIn Phase.hcLoad 1 0 0 Scratch.zero, Phase.hcRound),
     (busyIn Phase.hcRound 1 0 0 { Scratch.zero with rnd := 18 }, Phase.hcRound),
     (busyIn Phase.hcRound 1 0 0 { Scratch.zero with rnd := 19 }, Phase.hcOut),
     (busyIn Phase.hcOut 1 0 1 Scratch.zero, Phase.blkLoad), (busyIn Phase.blkLoad 1 0 0 Scratch.zero, Phase.blkRound),
     (busyIn Phase.blkRound 1 0 0 { Scratch.zero with rnd := 18 }, Phase.blkRound),
     (busyIn Phase.blkRound 1 0 0 { Scratch.zero with rnd := 19 }, Phase.blkOut),
     (busyIn Phase.blkOut 1 0 0 Scratch.zero, Phase.otk),
     (busyIn Phase.blkOut 1 0 1 { Scratch.zero with ctr := 1 }, Phase.xor),
     (busyIn Phase.otk 1 0 0 Scratch.zero, Phase.macInit), (busyIn Phase.xor 1 0 65 Scratch.zero, Phase.blkLoad),
     (busyIn Phase.xor 1 0 64 Scratch.zero, Phase.blkLoad), (busyIn Phase.xor 2 0 64 Scratch.zero, Phase.wipe)].all
      (fun p => nextIs (step p.1) fun t => t.phase == p.2) = true ∧
    [(busyIn Phase.macInit 1 1 0 Scratch.zero, Phase.macAad), (busyIn Phase.macInit 1 0 1 Scratch.zero, Phase.macData),
     (busyIn Phase.macInit 1 0 0 Scratch.zero, Phase.macLen), (busyIn Phase.macAad 1 17 0 Scratch.zero, Phase.macAad),
     (busyIn Phase.macAad 1 16 1 Scratch.zero, Phase.macData), (busyIn Phase.macAad 1 16 0 Scratch.zero, Phase.macLen),
     (busyIn Phase.macData 1 0 17 Scratch.zero, Phase.macData), (busyIn Phase.macData 1 0 16 Scratch.zero, Phase.macLen),
     (busyIn Phase.macLen 1 0 0 Scratch.zero, Phase.macFinal), (busyIn Phase.macFinal 1 0 0 Scratch.zero, Phase.tagOut),
     (busyIn Phase.macFinal 2 0 0 Scratch.zero, Phase.tagCmp), (busyIn Phase.tagOut 1 0 0 Scratch.zero, Phase.wipe),
     (comparing 1 (hex 16 7), Phase.blkLoad), (comparing 0 (hex 16 7), Phase.wipe),
     (comparing 0 (hex 16 8), Phase.failErase), (busyIn Phase.failErase 2 0 0 Scratch.zero, Phase.wipe),
     (busyIn Phase.wipe 2 0 0 Scratch.zero, Phase.idle)].all
      (fun p => nextIs (step p.1) fun t => t.phase == p.2) = true ∧
    (idleWith 0 0).status.busy = false ∧ (idleWith 0 0).phase = Phase.idle := by decide +kernel

/-- Two states that differ in KEY and scratch, and a host move in each. -/
theorem wit_HostCannotSeeSecrets :
    let s := { idleWith 0 0 with script := [.rd 0x20] }
    let s' := { s with key := keyA, scr := { Scratch.zero with r := 4 } }
    s.SamePublic s' ∧ s.script = HostMove.rd 0x20 :: [] ∧ nextIs (step s) (fun _ => true) = true := by decide +kernel

/-- Two states alike in control whose keys, and whose unequal tags, differ. -/
theorem wit_PhasesHideSecrets :
    (comparing 1 (hex 16 8)).SameControl { comparing 1 (hex 16 9) with key := keyA } ∧
    (comparing 1 (hex 16 8)).script = [] ∧
    ((comparing 1 (hex 16 8)).scr.ctag = (comparing 1 (hex 16 8)).tag ↔
      (comparing 1 (hex 16 9)).scr.ctag = (comparing 1 (hex 16 9)).tag) :=
  ⟨⟨rfl, rfl, rfl, rfl, rfl, rfl, rfl, rfl, rfl, rfl, rfl, rfl⟩, rfl, by decide +kernel⟩

/-- A state of ENCRYPT that meets the invariant and whose step changes ACC, all its data processed. -/
def macBusy : State :=
  { busyIn Phase.macData 1 0 1 { Scratch.zero with r := 4, acc := 1, pos := 1 } with dbuf := [(0, 9)] }

theorem wit_VerifyThenDecrypt :
    macBusy.Inv ∧ macBusy.script = [] ∧ macBusy.opc = 0x01 ∧
    nextIs (step macBusy) (fun t => t.scr.acc != macBusy.scr.acc) = true := by
  refine ⟨⟨?_, ?_, ?_, ?_, ?_, ?_, ?_, ?_, ?_, ?_, ?_⟩, ?_, ?_, ?_⟩ <;> decide +kernel

/-- In DECRYPT: the erasing of DBUF, the first XOR step after equal tags, and the comparison before it. -/
theorem wit_VerifyThenDecrypt_changes :
    (let s := { busyIn Phase.failErase 2 0 1 { Scratch.zero with ctag := hex 16 7, diff := 7 } with
      dbuf := [(0, 9)], status := { busy := true, done := false, err := 1, errInfo := 0 } }
     s.Inv ∧ nextIs (step s) (fun t => t.dbuf != s.dbuf) = true) ∧
    (let s := { busyIn Phase.xor 2 0 1 { Scratch.zero with ctag := hex 16 7, ctr := 1, ks := Vector.replicate 64 1 } with
      dbuf := [(0, 9)], tag := hex 16 7 }
     s.Inv ∧ nextIs (step s) (fun t => t.dbuf != s.dbuf) = true) ∧
    (comparing 1 (hex 16 7)).scr.ctr = 0 ∧
    nextIs (step (comparing 1 (hex 16 7))) (fun t => t.scr.ctr != 0) = true := by
  refine ⟨⟨⟨?_, ?_, ?_, ?_, ?_, ?_, ?_, ?_, ?_, ?_, ?_⟩, ?_⟩, ⟨⟨?_, ?_, ?_, ?_, ?_, ?_, ?_, ?_, ?_, ?_, ?_⟩, ?_⟩, ?_, ?_⟩ <;>
    decide +kernel

theorem wit_BlockAgreement :
    (busyIn Phase.blkLoad 1 0 0 Scratch.zero).status.busy = true ∧ (busyIn Phase.blkLoad 1 0 0 Scratch.zero).script = [] := by
  decide

theorem wit_HChaChaAgreement :
    (busyIn Phase.hcLoad 2 0 0 Scratch.zero).status.busy = true ∧ (busyIn Phase.hcLoad 2 0 0 Scratch.zero).script = [] := by
  decide

/-- A state of the invariant before an OUT step, whose RND is 20, and the step's, whose RND is 0 (R24). -/
theorem wit_RoundPhases_out :
    let s := busyIn Phase.hcOut 1 0 0 { Scratch.zero with rnd := 20 }
    s.Inv ∧ s.script = [] ∧ nextIs (step s) (fun t => t.scr.rnd == 0) = true := by
  refine ⟨⟨?_, ?_, ?_, ?_, ?_, ?_, ?_, ?_, ?_, ?_, ?_⟩, ?_, ?_⟩ <;> decide +kernel

/-- P6: the tag of the empty message under the all-zero key and nonce, in a state that is ready for DECRYPT. -/
theorem wit_DecryptRun :
    let s := { idleWith 0 0 with tag := hex 16 0x8f3b945a51906dc8600de9f8962d00e6 }
    s.Ready ∧ s.operandsLegal ∧ s.script = [] ∧
    s.tag = poly1305Mac (xchacha20PolyKey s.key s.xnonce) (macInput s.aadBytes s.dataBytes) := by
  refine ⟨⟨⟨?_, ?_, ?_, ?_, ?_, ?_, ?_, ?_, ?_, ?_, ?_⟩, ?_⟩, ?_, ?_, ?_⟩ <;> decide +kernel

/-- Script runs from reset, operands that fill the buffers, and a `wait` that ends. -/
theorem wit_HostScripts :
    State.reset.Ready ∧ (List.replicate 1024 (1 : Byte)).length ≤ State.reset.params.abufCap ∧
    (List.replicate 1024 (1 : Byte)).length < 2 ^ 64 ∧
    (List.replicate 1024 (1 : Byte)).length ≤ State.reset.params.dbufCap ∧
    (List.replicate 1024 (1 : Byte)).length ≤ (2 ^ 32 - 1) * 64 ∧ State.reset.status.busy = false ∧
    nextIs (step (busyIn Phase.wipe 1 0 0 Scratch.zero)) (fun t => t.status.done) = true := by
  refine ⟨⟨⟨?_, ?_, ?_, ?_, ?_, ?_, ?_, ?_, ?_, ?_, ?_⟩, ?_⟩, ?_, ?_, ?_, ?_, ?_, ?_⟩
  all_goals decide +kernel

theorem wit_AuthenticationFailure :
    (idleWith 0 0).tag ≠ poly1305Mac (xchacha20PolyKey (idleWith 0 0).key (idleWith 0 0).xnonce)
      (macInput (idleWith 0 0).aadBytes (idleWith 0 0).dataBytes) ∧
    (comparing 1 (hex 16 8)).phase = Phase.tagCmp ∧ (comparing 1 (hex 16 8)).scr.ctag ≠ (comparing 1 (hex 16 8)).tag ∧
    nextIs (step (comparing 1 (hex 16 8))) (fun t => t.status.err == 1) = true ∧
    (comparing 1 (hex 16 8)).status.err ≠ 1 := by decide +kernel

/-- The whole of P6, 51 steps and START, run in the model (R192, R203). -/
theorem test_encrypt_P6 :
    nextIs (runSteps 52 { idleWith 0 0 with script := [.wr 0x00 1] }) (fun t =>
      t.tag == hex 16 0x8f3b945a51906dc8600de9f8962d00e6 && t.status.toWord == 0x00000002 && t.scr == Scratch.zero &&
      t.phase == Phase.idle) = true := by decide +kernel

end Sys2Proof.Tests.Slice0
end

section
/-! PROOFS. Byte order (spec 00_scope.md R10, 20_memory.md R63): what assembly and serialization are as numbers. -/

namespace Sys2Proof.Machine

/-- A byte put below a bit string is its least significant base-256 digit. -/
theorem toNat_append_byte {m : Nat} (hi : BitVec m) (lo : Byte) :
    (hi ++ lo).toNat = lo.toNat + 2 ^ 8 * hi.toNat := by
  rw [BitVec.toNat_append, ← Nat.shiftLeft_add_eq_or_of_lt lo.isLt, Nat.shiftLeft_eq, Nat.mul_comm, Nat.add_comm]

/-- `LE32` (R10) as a number. -/
@[simp] theorem toNat_le32 (b0 b1 b2 b3 : Byte) :
    (le32 b0 b1 b2 b3).toNat = b0.toNat + 2 ^ 8 * b1.toNat + 2 ^ 16 * b2.toNat + 2 ^ 24 * b3.toNat := by
  simp only [le32, toNat_append_byte]
  ring

/-- Byte j of `LE32B(w)` (R10) as a number; past the word it is zero on both sides. -/
@[simp] theorem toNat_wordByte (w : Word) (j : Nat) : (wordByte w j).toNat = w.toNat / 2 ^ (8 * j) % 256 := by
  rw [wordByte, BitVec.extractLsb'_toNat, Nat.shiftRight_eq_div_pow]

/-- Byte i of `LEbytes_n(v)` (R10) as a number. -/
theorem toNat_getElem_leBytes (n v i : Nat) (h : i < n) :
    ((leBytes n v)[i]'h).toNat = v / 2 ^ (8 * i) % 256 := by
  rw [getElem_leBytes, BitVec.toNat_ofNat, pow_mul]
  rfl

/-- The first byte of `LEbytes` is the lowest digit, and the others are those of the quotient by 256. -/
theorem toList_leBytes_succ (n v : Nat) :
    (leBytes (n + 1) v).toList = BitVec.ofNat 8 v :: (leBytes n (v / 256)).toList := by
  simp [leBytes, Vector.toList_ofFn, List.ofFn_succ, pow_succ', Nat.div_div_eq_div_mul]

/-- `LEint` reads back from `LEbytes_n(v)` the low n bytes of v. -/
@[simp] theorem leInt_leBytes (n v : Nat) : leInt (leBytes n v).toList = v % 256 ^ n := by
  induction n generalizing v with
  | zero => exact (Nat.mod_one v).symm
  | succ n ih =>
    calc leInt (leBytes (n + 1) v).toList
        _ = v % 256 + 256 * (v / 256 % 256 ^ n) := by rw [toList_leBytes_succ, leInt, ih, BitVec.toNat_ofNat]
        _ = v % 256 ^ (n + 1) := by rw [pow_succ', Nat.mod_mul]

/-- Settles O1: `LE32` and `LE32B` by the weight of each byte, `LEbytes` against `LEint` by induction on the number
of bytes. -/
theorem littleEndianOrder : Obligations.LittleEndianOrder :=
  ⟨toNat_le32, fun w j _ => toNat_wordByte w j, rfl, fun _ _ => rfl, toNat_getElem_leBytes,
    fun n v hv => (leInt_leBytes n v).trans (Nat.mod_eq_of_lt hv)⟩

end Sys2Proof.Machine
end

section
/-! PROOFS. The step as an equation (spec 10_state.md R20, R26, R44, 30_encoding.md R81): the converse of `step_cases`,
for proofs that know the move or the phase and want the step's answer. -/

namespace Sys2Proof.Machine

/-- A decoded phase code is one of the nineteen (R86). -/
theorem phaseNamed_of_decodePhase {s : State} {i : Instr} (h : decodePhase s.phase = .ok i) : s.PhaseNamed := by
  by_contra hc
  have hn := (decodePhase_none_iff s.phase).2 (Nat.lt_of_not_le hc)
  rw [h] at hn
  cases hn

/-- The turn of the busy core is the unit operation PHASE names (R26). -/
theorem coreFetch_busy {s : State} {i : Instr} (hb : s.status.busy = true) (hd : decodePhase s.phase = .ok i) :
    coreFetch s = .run i s := by
  simp only [coreFetch, hd, hb, if_true]

/-- The busy core with no host move to come runs the unit operation PHASE names (R20, R26). -/
theorem step_of_phase {s : State} {i : Instr} (hb : s.status.busy = true) (hs : s.script = [])
    (hd : decodePhase s.phase = .ok i) : step s = exec i s := by
  rw [step_nil hs, coreFetch_busy hb hd]

/-- The first move of the script is made, in a state that is not stuck or by the reset input (R87, R260). -/
theorem fetch_script {s : State} {m : HostMove} {rest : List HostMove} (hp : s.PhaseNamed ∨ m = .reset) :
    fetch { s with script := m :: rest } = moveFetch m rest { s with script := m :: rest } :=
  fetch_move (s := { s with script := m :: rest }) rfl hp

/-- A `core` move gives the busy core its turn. -/
theorem step_core_of_phase {s : State} {i : Instr} (hb : s.status.busy = true) (hd : decodePhase s.phase = .ok i)
    (rest : List HostMove) : step { s with script := .core :: rest } = exec i { s with script := rest } := by
  have hp : s.PhaseNamed := phaseNamed_of_decodePhase hd
  have hf : fetch { s with script := .core :: rest } = coreFetch { s with script := rest } :=
    fetch_script (.inl hp)
  rw [step, hf, coreFetch_busy (s := { s with script := rest }) hb hd]

/-- A `wait` before DONE gives the busy core its turn and stays (R89). -/
theorem step_wait_of_phase {s : State} {i : Instr} (hb : s.status.busy = true) (hd : decodePhase s.phase = .ok i)
    (hn : s.status.done = false) (rest : List HostMove) :
    step { s with script := .wait :: rest } = exec i { s with script := .wait :: rest } := by
  have hp : s.PhaseNamed := phaseNamed_of_decodePhase hd
  have hf : fetch { s with script := .wait :: rest } = coreFetch { s with script := .wait :: rest } :=
    (fetch_script (.inl hp)).trans (if_neg (by simp [hn]))
  rw [step, hf, coreFetch_busy (s := { s with script := .wait :: rest }) hb hd]

/-- A host move whose effect is named is made, in a state that is not stuck or by the reset input (R44, R87, R260). -/
theorem step_of_moveEffect {m : HostMove} {s t : State} {rest : List HostMove} (hp : s.PhaseNamed ∨ m = .reset)
    (h : MoveEffect m { s with script := rest } t) : step { s with script := m :: rest } = .next t := by
  have hf := fetch_script (rest := rest) hp
  cases h with
  | start v => exact step_wr_cmd (hp.resolve_right (by simp)) v rest
  | write off v r _ hr hne =>
    simp only [step, hf, moveFetch, writeMove, hr]
  | read off r _ hr => simp only [step, hf, moveFetch, readMove, hr]
  | bufWrite sp off bs _ hb hc =>
    simp only [step, hf, moveFetch, bufWriteMove, memWrite_ok hc]
    rw [if_neg (by simpa using hb)]
  | bufRead sp off n _ hb hc =>
    simp only [step, hf, moveFetch, bufReadMove, memRead_ok hc]
    rw [if_neg (by simpa using hb)]
  | waited _ hd =>
    simp only [step, hf, moveFetch]
    rw [if_pos (by simpa using hd)]
  | reset => simp only [step, hf, moveFetch]

/-- A step that answers a next state is the first of a longer run. -/
theorem runSteps_succ {s t : State} (h : step s = .next t) (k : Nat) : runSteps (k + 1) s = runSteps k t := by
  simp only [runSteps, Host.Core.run, core, h]

end Sys2Proof.Machine
end

section
/-! PROOFS. The register window (R28, R44, R81): each register's offset, and what a read and a write of it do as one
equation in `regRead` and `regWrite`. -/

namespace Sys2Proof.Machine

/-- The offsets of the window are the registers' own (R81). -/
theorem decodeRegOffset_offset (r : HostReg) : decodeRegOffset r.offset = .ok r := by
  cases r
  case key i => revert i; decide
  case xnonce i => revert i; decide
  case tag i => revert i; decide
  all_goals rfl

/-- Every whole word of the window is a register (R81), STATUS at offset 4 only. -/
theorem decodeRegOffset_word (k : Fin 32) : ∃ r, decodeRegOffset (4 * k.val) = .ok r ∧ (r = .status → k = 1) := by
  have h : ∀ k : Fin 32, (decodeRegOffset (4 * k.val)).toOption.isSome ∧
      ((decodeRegOffset (4 * k.val)).toOption = some .status → k = 1) := by decide
  obtain ⟨hs, h1⟩ := h k
  cases hd : decodeRegOffset (4 * k.val) with
  | error e => simp [hd, Except.toOption] at hs
  | ok r => exact ⟨r, rfl, fun hr => h1 (by rw [hd, hr]; rfl)⟩

/-- The reserved offsets of the window (R81). -/
theorem reserved_offset {off : Nat} (h : off ∈ [0x0C, 0x58, 0x5C, 0x70, 0x74, 0x78, 0x7C]) :
    decodeRegOffset off = .ok .reserved :=
  (by decide : ∀ off ∈ [0x0C, 0x58, 0x5C, 0x70, 0x74, 0x78, 0x7C], decodeRegOffset off = .ok .reserved) off h

@[simp] theorem regRead_script (r : HostReg) (s : State) (l : List HostMove) :
    regRead r { s with script := l } = regRead r s := by cases r <;> rfl

theorem regWrite_busy (r : HostReg) (v : Word) {s : State} (hb : s.status.busy = true) : regWrite r v s = s := if_pos hb

/-- No write reaches scratch. -/
@[simp] theorem regWrite_scr (r : HostReg) (v : Word) (s : State) : (regWrite r v s).scr = s.scr := by
  cases hb : s.status.busy with
  | true => rw [regWrite_busy r v hb]
  | false => cases r <;> simp [regWrite, startCommand, hb]

/-- Only a write of CMD reaches PHASE (R190). -/
theorem regWrite_phase {r : HostReg} (hr : r ≠ .cmd) (v : Word) (s : State) : (regWrite r v s).phase = s.phase := by
  cases hb : s.status.busy with
  | true => rw [regWrite_busy r v hb]
  | false => cases r <;> simp [regWrite, hb] at hr ⊢

/-- A write concerns no script. -/
theorem regWrite_script (r : HostReg) (v : Word) (s : State) (l : List HostMove) :
    regWrite r v { s with script := l } = { regWrite r v s with script := l } := by
  cases hb : s.status.busy with
  | true => rw [regWrite_busy r v hb, regWrite_busy r v (s := { s with script := l }) hb]
  | false => cases r <;> simp [regWrite, startCommand, hb]

/-- A host read of a register returns `regRead` of it and changes nothing else (R44). -/
theorem readsAs_regRead {s : State} (hp : s.PhaseNamed) {off : Nat} {r : HostReg} (h : decodeRegOffset off = .ok r) :
    s.ReadsAs off (regRead r s) := fun rest => by
  rw [step_of_moveEffect (.inl hp) (.read off r { s with script := rest } h), regRead_script]

/-- A host write of a register leaves `regWrite` of it (R44). -/
theorem writeGives_regWrite {s : State} (hp : s.PhaseNamed) {off : Nat} {r : HostReg} (h : decodeRegOffset off = .ok r)
    (v : Word) : s.WriteGives off v (regWrite r v s) := fun rest => by
  rw [← regWrite_script]
  by_cases hr : r = .cmd
  · subst hr
    rw [decodeRegOffset_cmd h, step_wr_cmd hp]
    unfold regWrite startCommand
    split <;> rfl
  · exact step_of_moveEffect (.inl hp) (.write off v r _ h hr)

/-- STATUS reads as the word of its fields (R28). -/
theorem Status.toWord_eq (st : Status) :
    st.toWord = (if st.busy then 1 else 0) ||| (if st.done then 1 else 0) <<< 1 ||| st.err.setWidth 32 <<< 2 |||
      st.errInfo.setWidth 32 <<< 4 := by
  have h : ∀ (busy done : Bool) (err : BitVec 2) (info : BitVec 4), Status.toWord ⟨busy, done, err, info⟩ =
        (if busy then 1 else 0) ||| (if done then 1 else 0) <<< 1 ||| err.setWidth 32 <<< 2 |||
          info.setWidth 32 <<< 4 := by decide
  exact h st.busy st.done st.err st.errInfo

/-- SIZES reads as the word of its three bytes (R32, R84). -/
theorem Sizes.toWord_eq (z : Sizes) :
    z.toWord = z.klen.setWidth 32 ||| z.nlen.setWidth 32 <<< 8 ||| z.tlen.setWidth 32 <<< 16 := by
  apply BitVec.eq_of_getLsbD_eq
  intro i hi
  have hw : z.toWord = le32 z.klen z.nlen z.tlen 0 := rfl
  have hlt (k : Nat) : i - k < 32 := Nat.lt_of_le_of_lt (Nat.sub_le i k) hi
  simp only [hw, le32, BitVec.getLsbD_append, BitVec.getLsbD_or, BitVec.getLsbD_shiftLeft, BitVec.getLsbD_setWidth, hi,
    hlt, decide_true, Bool.true_and, Nat.sub_sub, BitVec.ofNat_eq_ofNat, BitVec.getLsbD_zero]
  rcases Nat.lt_or_ge i 8 with h | h
  · simp [h, show i < 16 by omega]
  · have hk : z.klen.getLsbD i = false := BitVec.getLsbD_of_ge _ _ h
    rcases Nat.lt_or_ge i 16 with h' | h'
    · simp [h', hk, show ¬ i < 8 by omega, show i - 8 < 8 by omega]
    · have hn : z.nlen.getLsbD (i - 8) = false := BitVec.getLsbD_of_ge _ _ (by omega)
      simpa [hk, hn, show ¬ i < 8 by omega, show ¬ i < 16 by omega, show ¬ i - 8 < 8 by omega] using
        BitVec.lt_of_getLsbD

/-- While idle a register reads as `regRead` without its test of BUSY gives it. -/
theorem readsAs_of_regRead {s : State} (hp : s.PhaseNamed) (r : HostReg) {v : Word} (h : regRead r s = v) :
    s.ReadsAs r.offset v := h ▸ readsAs_regRead hp (decodeRegOffset_offset r)

theorem writeGives_of_regWrite {s t : State} (hp : s.PhaseNamed) (r : HostReg) {v : Word} (h : regWrite r v s = t) :
    s.WriteGives r.offset v t := h ▸ writeGives_regWrite hp (decodeRegOffset_offset r) v

/-- While busy every register but STATUS reads zero (R44). -/
theorem regRead_busy {r : HostReg} (hr : r ≠ .status) {s : State} (hb : s.status.busy = true) : regRead r s = 0 := by
  cases r
  case status => exact absurd rfl hr
  case key | reserved => rfl
  all_goals exact if_pos hb

/-- Settles O42: every offset decodes to its register, and `regRead` and `regWrite` give what the tables say of that
register; the buffer moves are `step_of_moveEffect`. -/
theorem hostAccessTable : Obligations.HostAccessTable := by
  refine ⟨fun s hp => ?_, fun s hp hb k v => ?_, fun s hp hb => ?_, fun s v hp hb => ?_,
    fun s sp off n bs rest hp hb => ⟨fun h => ?_, fun h => ?_⟩⟩
  · exact readsAs_of_regRead hp .status s.status.toWord_eq
  · obtain ⟨r, hr, hk⟩ := decodeRegOffset_word k
    have hw := writeGives_regWrite hp hr v
    rw [regWrite_busy r v hb] at hw
    exact ⟨hw, fun hne => regRead_busy (fun h => hne (hk h)) hb ▸ readsAs_regRead hp hr⟩
  · have hn : ¬ s.status.busy = true := by simp [hb]
    have reads (r : HostReg) {w : Word} (h : regRead r s = w) := readsAs_of_regRead hp r h
    refine ⟨reads .cmd (if_neg hn), reads .sizes ((if_neg hn).trans s.sizes.toWord_eq), reads .alenLo (if_neg hn),
      reads .alenHi (if_neg hn), reads .dlenLo (if_neg hn), reads .dlenHi (if_neg hn), fun i => reads (.key i) rfl,
      fun i => reads (.xnonce i) (if_neg hn), fun i => reads (.tag i) (if_neg hn), fun off hoff => ?_⟩
    exact readsAs_regRead hp (reserved_offset hoff)
  · have hn : ¬ s.status.busy = true := by simp [hb]
    have gives (r : HostReg) {t : State} (h : regWrite r v s = t) := writeGives_of_regWrite hp r h
    refine ⟨gives .cmd ((if_neg hn).trans (startCommand_idle v hb)), gives .sizes (if_neg hn),
      gives .alenLo (if_neg hn), gives .alenHi (if_neg hn), gives .dlenLo (if_neg hn), gives .dlenHi (if_neg hn),
      fun i => gives (.key i) (if_neg hn), fun i => gives (.xnonce i) (if_neg hn),
      fun i => gives (.tag i) (if_neg hn), fun off hoff => ?_⟩
    rcases List.mem_cons.1 hoff with rfl | hoff
    · exact gives .status (if_neg hn)
    · have h := writeGives_regWrite hp (reserved_offset hoff) v
      rwa [regWrite, if_neg hn] at h
  · exact step_of_moveEffect (.inl hp) (.bufRead sp off n { s with script := rest } hb h)
  · exact step_of_moveEffect (.inl hp) (.bufWrite sp off bs { s with script := rest } hb h)

end Sys2Proof.Machine
end

section
/-! PROOFS. What the core writes outside scratch and PHASE (spec 20_memory.md R67, R71), and the scratch half of R46. -/

namespace Sys2Proof.Machine

/-- A round phase writes scratch and PHASE only (R123, R142), and stays or goes on. -/
theorem roundPhase_eq (after : BitVec 5) (s : State) : ∃ p, (p = after ∨ p = s.phase) ∧
    roundPhase after s = { s with scr := s.scr.roundStep, phase := p } := by
  unfold roundPhase
  split
  · exact ⟨after, .inl rfl, rfl⟩
  · exact ⟨s.phase, .inr rfl, rfl⟩

/-- What a phase writes besides scratch and PHASE: one case per register or buffer the core can write. -/
inductive PhaseWrites (s : State) : State → Prop where
  | scratch (c : Scratch) (p : BitVec 5) : PhaseWrites s { s with scr := c, phase := p }
  | status (h : s.phase = Phase.check ∨ s.phase = Phase.tagCmp) (st : Status) (c : Scratch) (p : BitVec 5) :
      PhaseWrites s { s with status := st, scr := c, phase := p }
  | tag (h : s.phase = Phase.tagOut) : PhaseWrites s { s with tag := s.scr.ctag, phase := Phase.wipe }
  | xor (h : s.phase = Phase.xor) (c : Scratch) (p : BitVec 5) :
      PhaseWrites s { xorBody s with scr := c, phase := p }
  | erase (h : s.phase = Phase.failErase) :
      PhaseWrites s { s with dbuf := s.dbuf.writeBytes 0 (List.replicate s.dlen.toNat 0), phase := Phase.wipe }
  | wipe (h : s.phase = Phase.wipe) :
      PhaseWrites s { s with
        scr := Scratch.zero
        key := zeroBytes 32
        status := { s.status with busy := false, done := true }
        phase := Phase.idle }

/-- Every effect of a phase writes as `PhaseWrites` says. -/
theorem PhaseEffect.writes {s t : State} (h : PhaseEffect s t) : PhaseWrites s t := by
  cases h
  case violation h i _ => exact .status (.inl h) _ s.scr _
  case tagDiffer h _ d _ _ => exact .status (.inr h) _ _ _
  case hcRound | blkRound =>
    obtain ⟨p, -, h⟩ := roundPhase_eq _ s
    rw [h]
    exact .scratch _ _
  case xor h =>
    obtain ⟨c, p, he, -⟩ := xorNext_cases (xorBody s)
    rw [he]
    exact .xor h _ _
  case tagOut h => exact .tag h
  case failErase h _ => exact .erase h
  case wipe h => exact .wipe h
  all_goals exact .scratch _ _

/-- The chunk of an XOR step lies below DLEN (R155), so the bytes from DLEN on stay. -/
theorem read_xorBody_above {s : State} {a : Nat} (ha : s.dlen.toNat ≤ a) :
    (xorBody s).dbuf.read a = s.dbuf.read a := by
  refine Memory.read_writeBytes_outside _ _ ?_
  rw [length_xorChunk, xorLen, chunkLen]
  omega

/-- Settles O49: the six ways a phase writes, each against the five clauses. -/
theorem coreStepFrame : Obligations.CoreStepFrame := by
  intro s t hb hs h
  have hw := (step_phase_cases hb hs h).writes
  cases hw with
  | scratch c p => exact ⟨rfl, fun _ _ => rfl, fun _ => rfl, fun _ => rfl, fun _ _ => rfl, fun _ _ _ => rfl⟩
  | status hp =>
    exact ⟨rfl, fun _ _ => rfl, fun _ => rfl, fun _ => rfl, fun _ _ => rfl, fun h1 h2 => (hp.elim h1 h2).elim⟩
  | tag hp => exact ⟨rfl, fun _ _ => rfl, fun hn => absurd hp hn, fun _ => rfl, fun _ _ => rfl, fun _ _ _ => rfl⟩
  | xor hp =>
    exact ⟨rfl, fun _ => read_xorBody_above, fun _ => rfl, fun _ => rfl, fun hn => absurd hp hn, fun _ _ _ => rfl⟩
  | erase hp =>
    refine ⟨rfl, fun a ha => ?_, fun _ => rfl, fun _ => rfl, fun _ hn => absurd hp hn, fun _ _ _ => rfl⟩
    exact Memory.read_writeBytes_outside _ _ (.inr (by simpa using ha))
  | wipe hp =>
    exact ⟨rfl, fun _ _ => rfl, fun _ => rfl, fun hn => absurd hp hn, fun _ _ => rfl, fun _ _ hn => absurd hp hn⟩

/-- The core reaches IDLE from WIPE, which has erased scratch, and otherwise only by staying there (R195, R214). -/
theorem PhaseEffect.idle_cases {s t : State} (h : PhaseEffect s t) (ht : t.phase = Phase.idle) :
    t = s ∨ t.scr = Scratch.zero := by
  have never {p q : BitVec 5} (e : p = q) (hq : q ≠ Phase.idle) (hp : p = Phase.idle) : False := hq (e.symm.trans hp)
  cases h
  case idle => exact .inl rfl
  case wipe => exact .inr rfl
  case hcRound h | blkRound h =>
    obtain ⟨p, hp, he⟩ := roundPhase_eq _ s
    rw [he] at ht
    exact hp.elim (fun e => (never e (by decide) ht).elim) (fun e => (never (e.trans h) (by decide) ht).elim)
  case blkOut p h0 h1 =>
    by_cases hc : s.scr.ctr = 0
    · exact (never (h0 hc) (by decide) ht).elim
    · exact (never (h1 hc) (by decide) ht).elim
  case xor =>
    obtain ⟨c, p, he, more, last, done⟩ := xorNext_cases (xorBody s)
    rw [he] at ht
    rcases Nat.lt_or_ge (xorBody s).scr.pos.toNat (xorBody s).dlen.toNat with hlt | hge
    · exact (never (more hlt).2 (by decide) ht).elim
    · by_cases ho : (xorBody s).opc = opcEncrypt
      · exact (never (last hge ho).2 (by decide) ht).elim
      · exact (never (done hge ho).2 (by decide) ht).elim
  case macInit p _ _ h1 h2 h3 =>
    rcases Nat.eq_zero_or_pos s.alen.toNat with ha | ha
    · rcases Nat.eq_zero_or_pos s.dlen.toNat with hd | hd
      · exact (never (h3 ha hd) (by decide) ht).elim
      · exact (never (h2 ha hd) (by decide) ht).elim
    · exact (never (h1 ha) (by decide) ht).elim
  case macAadLast p _ _ h1 h0 =>
    rcases Nat.eq_zero_or_pos s.dlen.toNat with hd | hd
    · exact (never (h0 hd) (by decide) ht).elim
    · exact (never (h1 hd) (by decide) ht).elim
  case macFinal p _ h1 h0 =>
    by_cases ho : s.opc = opcEncrypt
    · exact (never (h1 ho) (by decide) ht).elim
    · exact (never (h0 ho) (by decide) ht).elim
  case macAadMore h _ _ _ _ _ | macDataMore h _ _ _ _ _ => exact (never h (by decide) ht).elim
  all_goals
    dsimp only [setPhase_phase, raiseContractViolation, raiseError_phase] at ht
    exact absurd ht (by decide)

/-- A host move keeps R46: START leaves IDLE, the reset input erases scratch, and no other move writes PHASE or
scratch. -/
theorem MoveEffect.idleErased {m : HostMove} {s t : State} (h : MoveEffect m s t) (hs : s.IdleErased) :
    t.IdleErased := by
  cases h with
  | start v =>
    cases hb : s.status.busy with
    | true => rwa [startCommand_busy v hb]
    | false =>
      rw [startCommand_idle v hb]
      exact fun hp => absurd (show Phase.check = Phase.idle from hp) (by decide)
  | write off v r _ _ hr =>
    intro hp
    rw [regWrite_phase hr] at hp
    rw [regWrite_scr]
    exact hs hp
  | bufWrite sp => cases sp <;> exact hs
  | reset => exact fun _ => rfl
  | read | bufRead | waited => exact hs

/-- Settles O47: the core's turn by `PhaseEffect.idle_cases`, the host's move by `MoveEffect.idleErased`. -/
theorem idleErasedKept : Obligations.IdleErasedKept := by
  intro s t hs h
  rcases step_cases h with ⟨u, hu, hturn⟩ | ⟨m, rest, -, hm⟩
  · have hue : u.IdleErased := by
      rcases hu with ⟨rfl, -⟩ | ⟨rest, -, rfl⟩ <;> exact hs
    rcases hturn with ⟨-, rfl⟩ | ⟨-, i, hd, hx⟩
    · exact hue
    · intro ht
      rcases (exec_phase_cases hd hx).idle_cases ht with rfl | he
      · exact hue ht
      · exact he
  · exact hm.idleErased hs

end Sys2Proof.Machine
end

section
/-! PROOFS. KEY and scratch have no host path (spec 10_state.md R34, R44, 60_exceptions.md R241). -/

namespace Sys2Proof.Machine

theorem samePublic_iff {s s' : State} : s.SamePublic s' ↔ ∃ k c, s' = { s with key := k, scr := c } := by
  constructor
  · exact fun h => ⟨s'.key, s'.scr, h.symm⟩
  · rintro ⟨k, c, rfl⟩
    rfl

/-- No read depends on KEY or scratch (R34, R44). -/
theorem regRead_secrets (r : HostReg) (s : State) (k : Vector Byte 32) (c : Scratch) :
    regRead r { s with key := k, scr := c } = regRead r s := by cases r <;> rfl

/-- A write sees KEY and scratch only in the KEY it leaves (R44). -/
theorem regWrite_secrets (r : HostReg) (v : Word) (s : State) (k : Vector Byte 32) (c : Scratch) :
    (regWrite r v s).SamePublic (regWrite r v { s with key := k, scr := c }) := by
  cases hb : s.status.busy with
  | true =>
    rw [regWrite_busy r v hb, regWrite_busy r v (s := { s with key := k, scr := c }) hb]
  | false => cases r <;> simp [State.SamePublic, regWrite, startCommand, hb]

/-- A host move has the same effect, but for KEY and scratch, whatever KEY and scratch hold (R241). -/
theorem MoveEffect.secrets {m : HostMove} {s t : State} (h : MoveEffect m s t) (k : Vector Byte 32) (c : Scratch) :
    ∃ t', MoveEffect m { s with key := k, scr := c } t' ∧ t.SamePublic t' := by
  cases h with
  | start v =>
    refine ⟨_, .start v _, ?_⟩
    cases hb : s.status.busy with
    | true => rw [startCommand_busy v hb, startCommand_busy v (s := { s with key := k, scr := c }) hb]
    | false => rw [startCommand_idle v hb, startCommand_idle v (s := { s with key := k, scr := c }) hb]
  | write off v r _ hd hr => exact ⟨_, .write off v r _ hd hr, regWrite_secrets r v s k c⟩
  | read off r _ hd => exact ⟨_, .read off r _ hd, by simp only [State.SamePublic, regRead_secrets]⟩
  | bufWrite sp off bs _ hb hc => exact ⟨_, .bufWrite sp off bs _ hb (by cases sp <;> exact hc), by cases sp <;> rfl⟩
  | bufRead sp off n _ hb hc => exact ⟨_, .bufRead sp off n _ hb (by cases sp <;> exact hc), by cases sp <;> rfl⟩
  | waited _ hd => exact ⟨_, .waited _ hd, rfl⟩
  | reset => exact ⟨_, .reset _, rfl⟩

/-- A host move that answers a next state, not the core's turn, has its effect. -/
theorem moveEffect_of_step {s t : State} {m : HostMove} {rest : List HostMove} (hs : s.script = m :: rest)
    (hm : m ≠ .core) (hw : m = .wait → s.status.done = true) (h : step s = .next t) :
    MoveEffect m { s with script := rest } t := by
  rcases step_cases h with ⟨u, (⟨-, hn | ⟨l, hl, hd⟩⟩ | ⟨l, hl, -⟩), -⟩ | ⟨m', l, hl, he⟩
  · rw [hs] at hn
    cases hn
  · rw [hs] at hl
    cases hl
    rw [hw rfl] at hd
    cases hd
  · rw [hs] at hl
    cases hl
    exact absurd rfl hm
  · rw [hs] at hl
    cases hl
    exact he

/-- A host move that answers a next state starts in a state that is not stuck, or is the reset input (R87, R260). -/
theorem phaseNamed_of_step {s t : State} {m : HostMove} {rest : List HostMove} (hs : s.script = m :: rest)
    (h : step s = .next t) : s.PhaseNamed ∨ m = .reset := by
  by_contra hc
  rw [not_or] at hc
  rw [step, fetch_stuck hs (Nat.lt_of_not_le hc.1) hc.2] at h
  cases h

/-- Settles O51: the move has the same effect on both states (`MoveEffect.secrets`), and each step is that effect. -/
theorem hostCannotSeeSecrets : Obligations.HostCannotSeeSecrets := by
  intro s s' t m rest hpub hs hm hw h
  obtain ⟨k, c, rfl⟩ := samePublic_iff.1 hpub
  obtain ⟨t', he, ht⟩ := (moveEffect_of_step hs hm hw h).secrets k c
  have hp : s.PhaseNamed ∨ m = .reset := phaseNamed_of_step hs h
  have hstep := step_of_moveEffect (s := { s with key := k, scr := c }) hp he
  rw [← hs] at hstep
  exact ⟨t', hstep, ht⟩

end Sys2Proof.Machine
end

section
/-! PROOFS. Fetching: a command word and a phase code as the opcode table numbers their bits (spec 30_encoding.md R82,
R86), and the step that runs the decoded instruction. -/

namespace Sys2Proof.Machine

/-- The host's write of a word that decodes runs its instruction (R82, R190). -/
theorem step_wr_decodeCmd {s : State} {v : Word} {i : Instr} (hp : s.PhaseNamed) (h : decodeCmd v = .ok i)
    (rest : List HostMove) : step { s with script := .wr 0 v :: rest } = exec i { s with script := rest } := by
  rw [step_wr_cmd hp, exec_decodeCmd h]

/-- Byte j of a word is its base-256 digit j (R10). -/
theorem ofNat_div_eq_wordByte (v : Word) (j : Nat) : BitVec.ofNat 8 (v.toNat / 256 ^ j) = wordByte v j := by
  apply BitVec.eq_of_toNat_eq
  rw [toNat_wordByte, BitVec.toNat_ofNat, pow_mul]
  rfl

/-- The four bytes of a word's number are the word's bytes (R10, R63). -/
theorem toList_leBytes_word (v : Word) : (leBytes 4 v.toNat).toList = le32B v := by
  simp only [leBytes, Vector.toList_ofFn, ofNat_div_eq_wordByte]
  rfl

/-- A table word of 32 bits is the CMD word (R63, R82). -/
theorem codeOfBytes_cmd (v : Word) : codeOfBytes (tableWordBytes 32 v.toNat) = .ok (.cmd v) := by
  have hv : tableWordBytes 32 v.toNat = le32B v := toList_leBytes_word v
  rw [hv, le32B, codeOfBytes, le32_wordByte]

/-- A table word of 5 bits is the PHASE code (R86). -/
theorem codeOfBytes_phase (p : BitVec 5) : codeOfBytes (tableWordBytes 5 p.toNat) = .ok (.phase p) := by
  revert p
  decide

/-- A table word that holds a code decodes as the code does. -/
theorem decodeTableWord_of_code {nbits w : Nat} {c : Code} (hc : codeOfBytes (tableWordBytes nbits w) = .ok c) :
    decodeTableWord nbits w = (decode c).toOption := by
  simp only [decodeTableWord, decodeBytes, hc]
  cases decode c <;> rfl

theorem ok_of_toOption {e : Except DecodeError Instr} {i : Instr} (h : e.toOption = some i) : e = .ok i := by
  cases e with
  | error _ => cases h
  | ok _ => cases h; rfl

/-- Where a CMD word is placed (log entry 8). -/
theorem placeWord_cmd (s : State) (v : Word) :
    placeWord s 32 v.toNat = { s with script := .wr 0 v :: s.script } := by
  have hv : BitVec.ofNat 32 v.toNat = v := by simp
  rw [placeWord, hv]
  rfl

/-- Where a PHASE code is placed: BUSY exactly when it is not IDLE (R26, log entry 8). -/
theorem placeWord_phase (s : State) (p : BitVec 5) :
    placeWord s 5 p.toNat = { s with
      phase := p, status := { s.status with busy := decide (p ≠ 0) }, script := .core :: s.script } := by
  have hb : decide (p.toNat % 32 ≠ 0) = decide (p ≠ 0) := by revert p; decide
  have hp : BitVec.ofNat 5 p.toNat = p := by simp
  rw [placeWord, hp, hb]
  rfl

/-- The idle core's turn changes nothing (R202). -/
theorem step_core_idle {s : State} (hp : s.PhaseNamed) (hb : s.status.busy = false) (rest : List HostMove) :
    step { s with script := .core :: rest } = .next { s with script := rest } := by
  have hf : fetch { s with script := .core :: rest } = coreFetch { s with script := rest } := fetch_script (.inl hp)
  rw [step, hf]
  rcases coreFetch_cases { s with script := rest } with ⟨-, -, hc⟩ | ⟨hb', -⟩ | ⟨hn, -⟩
  · rw [hc]
    rfl
  · rw [hb] at hb'
    cases hb'
  · exact absurd hp (Nat.not_le.2 hn)

/-- Settles O41: the three ways to the core's turn, the write of CMD, and the two places of a table word. -/
theorem stepRunsDecoded : Obligations.StepRunsDecoded := by
  refine ⟨fun s i hb hd => ⟨fun hs => step_of_phase hb hs hd, step_core_of_phase hb hd,
    fun rest hn => step_wait_of_phase hb hd hn rest⟩, fun s v i rest hp hd => step_wr_decodeCmd hp hd rest,
    fun s v i hp hd => ?_, fun s p i hd => ?_⟩
  · rw [decodeTableWord_of_code (codeOfBytes_cmd v)] at hd
    rw [State.withFetchWord, placeWord_cmd]
    exact step_wr_decodeCmd hp (ok_of_toOption hd) s.script
  · rw [decodeTableWord_of_code (codeOfBytes_phase p)] at hd
    rw [State.withFetchWord, placeWord_phase]
    have hd := ok_of_toOption hd
    by_cases hp : p = 0
    · subst hp
      cases hd
      exact step_core_idle (s := { s with phase := 0, status := { s.status with busy := false } })
        (by decide : (0 : BitVec 5).toNat ≤ 18) rfl _
    · exact step_core_of_phase (s := { s with phase := p, status := { s.status with busy := decide (p ≠ 0) } })
        (decide_eq_true hp) hd s.script

end Sys2Proof.Machine
end

section
/-! PROOFS. Reset (spec 10_state.md R45, 70_reset_and_hazards.md R260), and the run of a command whose descriptor fails a
contract test (45_aead.md R191, R234): START, CHECK, WIPE. -/

namespace Sys2Proof.Machine

/-- The reset input is a step from every state (R260). -/
theorem step_reset {s : State} {rest : List HostMove} (hs : s.script = .reset :: rest) :
    step s = .next (resetEvent { s with script := rest }) := by
  rw [step, fetch_move hs (.inr rfl)]
  rfl

/-- CHECK with a failing contract test (R191). -/
theorem step_check_violation {s : State} (hb : s.status.busy = true) (hs : s.script = []) (hp : s.phase = Phase.check)
    {i : BitVec 4} (hc : contractFailure s = some i) : step s = .next (raiseContractViolation i s) := by
  rw [step_of_phase (i := .check) hb hs (by rw [hp]; rfl)]
  simp only [exec, execCheck, hc]

/-- WIPE (R214). -/
theorem step_wipe {s : State} (hb : s.status.busy = true) (hs : s.script = []) (hp : s.phase = Phase.wipe) :
    step s = .next (finishCommand (eraseSensitive s)) :=
  step_of_phase (i := .wipe) hb hs (by rw [hp]; rfl)

/-- A command whose descriptor fails contract test i ends three steps after its start, as R191 says. -/
theorem runSteps_violation {s : State} (hp : s.PhaseNamed) (hb : s.status.busy = false) (v : Word) {i : BitVec 4}
    (hc : contractFailure { s with opc := cmdOpc v } = some i) :
    runSteps 3 { s with script := [.wr 0x00 v] } = .next (violationEnd i { s with opc := cmdOpc v, script := [] }) := by
  have hstart := step_wr_cmd hp v []
  rw [startCommand_idle v (s := { s with script := [] }) hb] at hstart
  calc runSteps 3 { s with script := [.wr 0x00 v] }
      _ = runSteps 2 _ := runSteps_succ hstart 2
      _ = runSteps 1 _ := runSteps_succ (step_check_violation rfl rfl rfl (by exact hc)) 1
      _ = runSteps 0 _ := runSteps_succ (step_wipe rfl rfl rfl) 0

/-- With SIZES zero a descriptor fails the key size test, or the opcode test before it (R191). -/
theorem contractFailure_sizes_zero {s : State} (h : s.sizes = { klen := 0, nlen := 0, tlen := 0 }) :
    contractFailure s = some (if s.opc.toNat = 1 ∨ s.opc.toNat = 2 then 2 else 1) := by
  have ho : (s.opc ≠ opcEncrypt ∧ s.opc ≠ opcDecrypt) ↔ ¬ (s.opc.toNat = 1 ∨ s.opc.toNat = 2) := by
    rw [not_or, ne_eq, ne_eq, ← BitVec.toNat_inj, ← BitVec.toNat_inj]
    rfl
  have hk : s.sizes.klen ≠ keySize := by rw [h]; decide
  unfold contractFailure
  by_cases hl : s.opc.toNat = 1 ∨ s.opc.toNat = 2
  · rw [if_neg (fun hn => ho.1 hn hl), if_pos hk, if_pos hl]
  · rw [if_pos (ho.2 hl), if_neg hl]

/-- Settles O44: the reset event's registers by `rfl`, and the command by `runSteps_violation`. -/
theorem resetRegisters : Obligations.ResetRegisters := by
  refine ⟨fun s hs => ?_, fun u rest hu => ⟨_, step_reset hu, rfl⟩, fun s v hp hb hz => ?_⟩
  · rcases hs with rfl | ⟨u, rest, hu, h⟩
    · exact ⟨rfl, rfl, rfl, rfl, rfl, rfl, rfl, rfl, rfl, rfl⟩
    · rw [step_reset hu] at h
      cases h
      exact ⟨rfl, rfl, rfl, rfl, rfl, rfl, rfl, rfl, rfl, rfl⟩
  · have ho : (cmdOpc v).toNat = v.toNat % 256 := toNat_wordByte v 0 |>.trans (by simp)
    refine ⟨_, runSteps_violation hp hb v (contractFailure_sizes_zero hz), ?_, ?_⟩
    · rw [← ho]
      rfl
    · rw [← ho]
      refine readsAs_of_regRead (by decide : Phase.idle.toNat ≤ 18) .status ?_
      by_cases hl : (cmdOpc v).toNat = 1 ∨ (cmdOpc v).toNat = 2
      · rw [if_pos hl, if_pos hl]
        exact (by decide : Status.toWord ⟨false, true, errContract, 2⟩ = 0x0000002A)
      · rw [if_neg hl, if_neg hl]
        exact (by decide : Status.toWord ⟨false, true, errContract, 1⟩ = 0x0000001A)

end Sys2Proof.Machine
end

section
/-! PROOFS. Buffer accesses (spec 20_memory.md R66, R67): what a read returns and a write leaves, by the host and by the
core. -/

namespace Sys2Proof.Machine

/-- A replaced buffer space holds its new contents. -/
@[simp] theorem buf_setBuf (s : State) (sp : BufSpace) (m : Memory) : (s.setBuf sp m).buf sp = m := by
  cases sp <;> rfl

/-- Replacing a buffer's contents concerns no script. -/
theorem setBuf_script (s : State) (sp : BufSpace) (m : Memory) (l : List HostMove) :
    { s with script := l }.setBuf sp m = { s.setBuf sp m with script := l } := by cases sp <;> rfl

/-- While idle the host's `rdb` returns the bytes of MemRead (R44, R66). -/
theorem step_rdb {s : State} (hp : s.PhaseNamed) (hb : s.status.busy = false) {sp : BufSpace} {off n : Nat}
    (h : off + n ≤ s.cap sp) (rest : List HostMove) :
    step { s with script := .rdb sp off n :: rest } =
      .next { s with script := rest, hostData := .bytes ((s.buf sp).readBytes off n) } :=
  step_of_moveEffect (.inl hp) (.bufRead sp off n { s with script := rest } hb h)

/-- While idle the host's `wrb` leaves what MemWrite leaves (R44, R67). -/
theorem step_wrb {s : State} (hp : s.PhaseNamed) (hb : s.status.busy = false) {sp : BufSpace} {off : Nat}
    {v : List Byte} (h : off + v.length ≤ s.cap sp) (rest : List HostMove) :
    step { s with script := .wrb sp off v :: rest } =
      .next { s.setBuf sp ((s.buf sp).writeBytes off v) with script := rest } := by
  rw [← setBuf_script]
  exact step_of_moveEffect (.inl hp) (.bufWrite sp off v { s with script := rest } hb h)

/-- Settles O38: MemRead is `readBytes` and MemWrite is `writeBytes` of the buffer, whose bytes the laws of a buffer
give; that the core leaves ABUF alone is in its frame (O49). -/
theorem bufferAccess : Obligations.BufferAccess := by
  refine ⟨fun s sp off n h => ?_, fun s sp off v hwf h => ?_, fun s t hb hs h => ?_⟩
  · refine ⟨_, memRead_ok h, Memory.length_readBytes _ _ _, fun k hk => ?_, fun hp hb => step_rdb hp hb h⟩
    rw [← Memory.length_readBytes (s.buf sp) off n] at hk
    rw [List.getD_eq_getElem _ _ hk, Memory.getElem_readBytes]
  · refine ⟨_, memWrite_ok h, ?_⟩
    rw [buf_setBuf]
    refine ⟨fun k hk => ?_, fun a => Memory.read_writeBytes_outside _ _, Memory.writeBytes_wf v hwf off, rfl,
      fun hp hb => step_wrb hp hb h⟩
    rw [Memory.read_writeBytes_inside v hwf off hk, List.getD_eq_getElem _ _ hk]
  · obtain ⟨hframe, -⟩ := coreStepFrame s t hb hs h
    rw [hframe]

end Sys2Proof.Machine
end

section
/-! PROOFS. From a sound state the core never stops (spec 20_memory.md R66, R67, 60_exceptions.md R230): the bytes a
phase reads or writes lie in its segment, and CHECK has bounded the segment by the buffer. -/

namespace Sys2Proof.Machine

/-- A chunk that starts inside its segment ends inside it (R155, R196, R197). -/
theorem add_chunkLen_le {unit len off : Nat} (h : off ≤ len) : off + chunkLen unit len off ≤ len := by
  rw [chunkLen]
  omega

/-- A command past CHECK has both segments inside their buffers (R191). -/
theorem State.DescriptorSound.lengths_le {s : State} (h : s.DescriptorSound)
    (hp : ¬ s.inPhase [Phase.idle, Phase.check, Phase.wipe]) :
    s.alen.toNat ≤ s.params.abufCap ∧ s.dlen.toNat ≤ s.params.dbufCap := by
  obtain ⟨hlegal, -, -⟩ := h
  obtain ⟨-, -, -, -, ha, hd, -⟩ := (contractFailure_none_iff s).1 (hlegal hp)
  exact ⟨ha, hd⟩

/-- The chunk of an XOR step exists (R155, R66). -/
theorem State.Inv.xorChunk_le {s : State} (h : s.Inv) (hp : s.phase = Phase.xor) :
    s.scr.pos.toNat + xorLen s ≤ s.params.dbufCap := by
  obtain ⟨-, hctr, -, hpos, -⟩ := h.position
  obtain ⟨-, hlt⟩ := hpos (by simp [State.inPhase, hp]) (hctr hp)
  have hseg : s.scr.pos.toNat + xorLen s ≤ s.dlen.toNat := add_chunkLen_le (Nat.le_of_lt hlt)
  exact hseg.trans (h.descriptor.lengths_le (by rw [State.inPhase, hp]; decide)).2

/-- The block of a MAC_AAD step exists (R196, R66). -/
theorem State.Inv.aadBlock_le {s : State} (h : s.Inv) (hp : s.phase = Phase.macAad) :
    s.scr.mpos.toNat + aadLen s ≤ s.params.abufCap := by
  obtain ⟨-, -, hlt, -, -⟩ := h.macStage
  have hseg : s.scr.mpos.toNat + aadLen s ≤ s.alen.toNat := add_chunkLen_le (Nat.le_of_lt (hlt hp))
  exact hseg.trans (h.descriptor.lengths_le (by rw [State.inPhase, hp]; decide)).1

/-- The block of a MAC_DATA step exists (R197, R66). -/
theorem State.Inv.dataBlock_le {s : State} (h : s.Inv) (hp : s.phase = Phase.macData) :
    s.scr.mpos.toNat + dataLen s ≤ s.params.dbufCap := by
  obtain ⟨-, -, -, hlt, -⟩ := h.macStage
  have hseg : s.scr.mpos.toNat + dataLen s ≤ s.dlen.toNat := add_chunkLen_le (Nat.le_of_lt (hlt hp))
  exact hseg.trans (h.descriptor.lengths_le (by rw [State.inPhase, hp]; decide)).2

/-- The data a FAIL_ERASE step erases exists (R201, R67). -/
theorem State.Inv.erased_le {s : State} (h : s.Inv) (hp : s.phase = Phase.failErase) :
    s.dlen.toNat ≤ s.params.dbufCap :=
  (h.descriptor.lengths_le (by rw [State.inPhase, hp]; decide)).2

/-- The phase that decodes to an instruction is the instruction's code (R86). -/
theorem eq_of_decodePhase {p c : BitVec 5} {i : Instr} (hd : decodePhase p = .ok i)
    (hc : encode i = some (.phase c)) : p = c := by
  rw [encode_of_decodePhase hd] at hc
  cases hc
  rfl

/-- In a sound state the unit operation PHASE names answers a next state: the four phases that access a buffer find
their bytes, and the others cannot fault. -/
theorem State.Inv.exec_phase_next {s : State} (h : s.Inv) {i : Instr} (hd : decodePhase s.phase = .ok i) :
    ∃ t, exec i s = .next t := by
  cases i
  case xor => exact ⟨_, execXor_eq (h.xorChunk_le (eq_of_decodePhase hd rfl))⟩
  case macAad =>
    rw [exec, execMacAad_eq (h.aadBlock_le (eq_of_decodePhase hd rfl))]
    split <;> exact ⟨_, rfl⟩
  case macData =>
    rw [exec, execMacData_eq (h.dataBlock_le (eq_of_decodePhase hd rfl))]
    split <;> exact ⟨_, rfl⟩
  case failErase => exact ⟨_, execFailErase_eq (h.erased_le (eq_of_decodePhase hd rfl))⟩
  case check =>
    rw [exec, execCheck]
    split <;> exact ⟨_, rfl⟩
  case tagCmp =>
    rw [exec, execTagCmp]
    split_ifs <;> exact ⟨_, rfl⟩
  case idle | hcLoad | hcRound | hcOut | blkLoad | blkRound | blkOut | otk | macInit | macLen | macFinal | tagOut |
      wipe => exact ⟨_, rfl⟩
  all_goals cases encode_of_decodePhase hd

/-- Settles O48: the idle core stays, the busy core's phase answers (`State.Inv.exec_phase_next`) and by its frame (O49)
leaves the script, and no sound state holds a reserved code. -/
theorem coreNeverStops : Obligations.CoreNeverStops := by
  intro s h hs
  rcases coreFetch_cases s with ⟨-, -, hf⟩ | ⟨hb, i, hd, -⟩ | ⟨hn, -⟩
  · refine ⟨s, ?_, hs⟩
    rw [step_nil hs, hf]
    rfl
  · obtain ⟨t, ht⟩ := h.exec_phase_next hd
    have hstep : step s = .next t := (step_of_phase hb hs hd).trans ht
    obtain ⟨hframe, -⟩ := coreStepFrame s t hb hs hstep
    exact ⟨t, hstep, (congrArg State.script hframe).trans hs⟩
  · exact absurd h.phaseCode.1 (Nat.not_le.2 hn)

end Sys2Proof.Machine
end

section
/-! PROOFS. Codes (spec 30_encoding.md R82, R83, R86, R87): decoding and encoding are inverse on the codes of both
formats, on their bytes, and on the opcode table's words. -/

namespace Sys2Proof.Machine

/-- Byte j of the word four bytes assemble to (R10, R63). -/
theorem wordByte_le32 (b0 b1 b2 b3 : Byte) :
    wordByte (le32 b0 b1 b2 b3) 0 = b0 ∧ wordByte (le32 b0 b1 b2 b3) 1 = b1 ∧ wordByte (le32 b0 b1 b2 b3) 2 = b2 ∧
      wordByte (le32 b0 b1 b2 b3) 3 = b3 := by
  simp only [← BitVec.toNat_inj, toNat_wordByte, toNat_le32]
  omega

/-- A command word with opcode ENCRYPT or DECRYPT decodes to it, whatever the ignored bits (R82). -/
theorem decodeCmd_append (r : BitVec 24) :
    decodeCmd (r ++ opcEncrypt) = .ok (.encrypt r) ∧ decodeCmd (r ++ opcDecrypt) = .ok (.decrypt r) := by
  simp only [decodeCmd, cmdOpc_append, cmdReserved_append]
  exact ⟨rfl, rfl⟩

/-- A decoded command word is the one the encoder gives (R82). -/
theorem encode_of_decodeCmd {w : Word} {i : Instr} (h : decodeCmd w = .ok i) : encode i = some (.cmd w) := by
  have hw := cmd_split w
  unfold decodeCmd at h
  split at h
  · next ho =>
    cases h
    rw [ho] at hw
    exact congrArg (fun w => some (Code.cmd w)) hw
  · split at h
    · next ho =>
      cases h
      rw [ho] at hw
      exact congrArg (fun w => some (Code.cmd w)) hw
    · cases h

/-- The encoder gives a code exactly when the decoder reads the instruction from it (R82, R86, R88). -/
theorem encode_iff_decode (i : Instr) (c : Code) : encode i = some c ↔ decode c = .ok i := by
  constructor
  · intro h
    cases i
    case encrypt r => cases h; exact (decodeCmd_append r).1
    case decrypt r => cases h; exact (decodeCmd_append r).2
    all_goals cases h
    all_goals rfl
  · intro h
    cases c with
    | cmd w => exact encode_of_decodeCmd h
    | phase p => exact encode_of_decodePhase h

/-- A byte string holds exactly the code whose bytes it is (log entry 16). -/
theorem codeOfBytes_iff (bs : List Byte) (c : Code) : codeOfBytes bs = .ok c ↔ c.bytes = bs := by
  constructor
  · intro h
    unfold codeOfBytes at h
    split at h
    · next b =>
      split at h
      · next hb =>
        cases h
        have hw : (b.setWidth 5).setWidth 8 = b := by
          apply BitVec.eq_of_toNat_eq
          simp only [BitVec.toNat_setWidth]
          omega
        exact congrArg (fun b => [b]) hw
      · cases h
    · next b0 b1 b2 b3 =>
      cases h
      obtain ⟨h0, h1, h2, h3⟩ := wordByte_le32 b0 b1 b2 b3
      rw [Code.bytes, le32B, h0, h1, h2, h3]
    · cases h
  · rintro rfl
    cases c with
    | cmd w => rw [Code.bytes, le32B, codeOfBytes, le32_wordByte]
    | phase p =>
      revert p
      decide

/-- Settles O40: the codes by `encode_iff_decode`, their bytes by `codeOfBytes_iff`, the table's words by
`decodeTableWord_of_code`. -/
theorem decodeEncodeAgree : Obligations.DecodeEncodeAgree := by
  refine ⟨encode_iff_decode, fun i bs => ?_, fun w => decodeTableWord_of_code (codeOfBytes_cmd w),
    fun p => decodeTableWord_of_code (codeOfBytes_phase p)⟩
  simp only [encode_iff_decode, ← codeOfBytes_iff, decodeBytes]
  cases codeOfBytes bs with
  | error e => simp
  | ok c => simp [and_comm]

/-- The opcode test of R82 as written, on the word and on its low byte. -/
theorem and_ff_eq_iff (w : Word) (o : Byte) : w &&& 0xff = o.setWidth 32 ↔ cmdOpc w = o := by
  have hw : (w &&& 0xff).toNat = w.toNat % 256 := by
    rw [BitVec.toNat_and]
    exact Nat.and_two_pow_sub_one_eq_mod _ 8
  have ho := o.isLt
  rw [← BitVec.toNat_inj, ← BitVec.toNat_inj, hw, BitVec.toNat_setWidth, cmdOpc, BitVec.extractLsb'_toNat,
    Nat.shiftRight_zero]
  omega

/-- Settles O39: R82's test by `and_ff_eq_iff`, the codes of R86 one by one, and the reserved codes of R87. -/
theorem opcodeTables : Obligations.OpcodeTables := by
  refine ⟨fun w => ⟨fun h => ?_, fun h => ?_, fun h1 h2 => ?_⟩, fun s hp hb => ?_, by decide,
    fun s i hb hs hd => step_of_phase hb hs hd, by decide⟩
  · exact if_pos ((and_ff_eq_iff w opcEncrypt).1 h)
  · have ho : cmdOpc w = opcDecrypt := (and_ff_eq_iff w opcDecrypt).1 h
    exact (if_neg (by rw [ho]; decide)).trans (if_pos ho)
  · exact (if_neg (mt (and_ff_eq_iff w opcEncrypt).2 h1)).trans (if_neg (mt (and_ff_eq_iff w opcDecrypt).2 h2))
  · exact readsAs_of_regRead hp .cmd ((if_neg (by simp [hb])).trans (BitVec.ofNat_toNat 32 s.opc).symm)

end Sys2Proof.Machine
end

section
/-! PROOFS. The format P rows (spec 30_encoding.md R88): a pure row's value on the port and no register written. -/

namespace Sys2Proof.Machine

/-- QR's row puts the four words of `quarterRound` on the port (R88, R103). -/
theorem exec_qr {a b c d a' b' c' d' : Word} (h : quarterRound a b c d = (a', b', c', d')) (s : State) :
    exec (.qr a b c d) s = .next { s with fnOut := .quad a' b' c' d' } := by
  rw [exec, execQr, h]
  rfl

/-- Settles O16: each meaning is its function's value put on the port. -/
theorem pureRowsComplete : Obligations.PureRowsComplete :=
  ⟨fun _ _ _ => rfl, fun _ _ _ => rfl, fun _ _ _ => rfl, fun s _ _ _ _ _ _ _ _ h => exec_qr h s, fun _ _ => rfl,
    fun _ _ => rfl, fun _ _ => rfl, fun _ _ => rfl, fun _ _ _ _ => rfl, fun _ _ _ => rfl, fun _ _ _ _ => rfl,
    fun _ _ _ => rfl, fun _ _ _ => rfl, fun _ _ _ => rfl⟩

end Sys2Proof.Machine
end

section
/-! PROOFS. An illegal opcode (spec 30_encoding.md R83), and the named stops (R87, R270, R81, R66). -/

namespace Sys2Proof.Machine

/-- In a ready state PHASE names a phase, the core is idle and scratch is erased (R26, R46). -/
theorem State.Ready.idle_erased {s : State} (h : s.Ready) :
    s.PhaseNamed ∧ s.phase = Phase.idle ∧ s.scr = Scratch.zero := by
  obtain ⟨hn, hbusy⟩ := h.inv.phaseCode
  have hi : s.phase = Phase.idle := by
    by_contra hp
    have hb := hbusy.2 hp
    rw [h.idle] at hb
    cases hb
  exact ⟨hn, hi, h.inv.erased hi⟩

/-- A low byte that is neither opcode fails the first contract test (R191). -/
theorem contractFailure_illegal (s : State) {v : Word} (h1 : v.toNat % 256 ≠ 1) (h2 : v.toNat % 256 ≠ 2) :
    contractFailure { s with opc := cmdOpc v } = some 1 := by
  have ho : (cmdOpc v).toNat = v.toNat % 256 := by rw [cmdOpc, BitVec.extractLsb'_toNat, Nat.shiftRight_zero]
  refine if_pos ⟨fun he => h1 ?_, fun he => h2 ?_⟩
  all_goals
    rw [← ho, show cmdOpc v = _ from he]
    rfl

/-- Settles O36: the run of a failing contract test (`runSteps_violation`), from a state with scratch erased. -/
theorem illegalOpcode : Obligations.IllegalOpcode := by
  intro s v hr hs h1 h2
  obtain ⟨hn, -, hz⟩ := hr.idle_erased
  rw [runSteps_violation hn hr.idle v (contractFailure_illegal s h1 h2), violationEnd, endOfCommand, ← hz, ← hs]
  rfl

/-- Only whole words of the window are registers (R81). -/
theorem decodeRegOffset_outside {off : Nat} (h : off % 4 ≠ 0 ∨ 0x80 ≤ off) :
    decodeRegOffset off = .error (.noSuchRegister off) := by
  unfold decodeRegOffset
  split
  · split
    case h_33 => rfl
    all_goals omega
  · rfl

/-- A buffer write while busy is refused (R270). -/
theorem bufWriteMove_busy {s : State} (hb : s.status.busy = true) (sp : BufSpace) (off : Nat) (bs : List Byte) :
    bufWriteMove sp off bs s = .done (.refused .bufferAccessWhileBusy) := if_pos hb

/-- A buffer read while busy is refused (R270). -/
theorem bufReadMove_busy {s : State} (hb : s.status.busy = true) (sp : BufSpace) (off n : Nat) :
    bufReadMove sp off n s = .done (.refused .bufferAccessWhileBusy) := if_pos hb

/-- MemRead where its bytes do not all exist (R66). -/
theorem memRead_outside {sp : BufSpace} {off n : Nat} {s : State} (h : s.cap sp < off + n) :
    memRead sp off n s = .error .outsideBuffer := if_neg (Nat.not_le.2 h)

/-- MemWrite where its bytes do not all exist (R67). -/
theorem memWrite_outside {sp : BufSpace} {off : Nat} {v : List Byte} {s : State} (h : s.cap sp < off + v.length) :
    memWrite sp off v s = .error .outsideBuffer := if_neg (Nat.not_le.2 h)

/-- An idle buffer write of bytes that do not all exist faults (log entry 14). -/
theorem bufWriteMove_outside {s : State} (hb : s.status.busy = false) {sp : BufSpace} {off : Nat} {bs : List Byte}
    (h : s.cap sp < off + bs.length) : bufWriteMove sp off bs s = .done (.fault .outsideBuffer) := by
  rw [bufWriteMove, memWrite_outside h, if_neg (by simp [hb])]

/-- An idle buffer read of bytes that do not all exist faults (log entry 14). -/
theorem bufReadMove_outside {s : State} (hb : s.status.busy = false) {sp : BufSpace} {off n : Nat}
    (h : s.cap sp < off + n) : bufReadMove sp off n s = .done (.fault .outsideBuffer) := by
  rw [bufReadMove, memRead_outside h, if_neg (by simp [hb])]

/-- A move that is complete in itself is the step. -/
theorem step_of_moveFetch {s : State} {m : HostMove} {rest : List HostMove} {o : Out} (hp : s.PhaseNamed)
    (h : moveFetch m rest { s with script := m :: rest } = .done o) : step { s with script := m :: rest } = o := by
  rw [step, fetch_script (.inl hp), h]

/-- A reserved code has no step (R87, U11). -/
theorem step_reserved {s : State} (h : 18 < s.phase.toNat) (hs : s.script = []) : step s = .fault .reservedPhase := by
  rcases coreFetch_cases s with ⟨-, hn, -⟩ | ⟨-, i, hd, -⟩ | ⟨-, hf⟩
  · omega
  · exact absurd (phaseNamed_of_decodePhase hd) (Nat.not_le.2 h)
  · rw [step_nil hs, hf]

/-- Settles O37: the reserved codes on either turn, the refusals by the move, and each access by MemRead or MemWrite
outside its buffer. -/
theorem namedStops : Obligations.NamedStops := by
  refine ⟨fun s h => ⟨step_reserved h, fun m rest hm => ?_⟩, fun s sp off n bs rest hp hb => ⟨?_, ?_⟩,
    fun s off v rest hp h => ⟨?_, ?_⟩, fun s sp off n bs rest hp hb => ⟨fun h => ?_, fun h => ?_⟩,
    fun s => ⟨fun h => ?_, fun h => ?_, fun h => ?_, fun h => ?_⟩⟩
  · rw [step, fetch_stuck (s := { s with script := m :: rest }) rfl h hm]
  · exact step_of_moveFetch hp (bufWriteMove_busy (s := { s with script := rest }) hb sp off bs)
  · exact step_of_moveFetch hp (bufReadMove_busy (s := { s with script := rest }) hb sp off n)
  · exact step_of_moveFetch hp (by simp only [moveFetch, writeMove, decodeRegOffset_outside h])
  · exact step_of_moveFetch hp (by simp only [moveFetch, readMove, decodeRegOffset_outside h])
  · exact step_of_moveFetch hp (bufWriteMove_outside (s := { s with script := rest }) hb h)
  · exact step_of_moveFetch hp (bufReadMove_outside (s := { s with script := rest }) hb h)
  · rw [exec, execXor, memRead_outside (by exact h)]
  · rw [exec, execMacAad, memRead_outside (by exact h)]
  · rw [exec, execMacData, memRead_outside (by exact h)]
  · rw [exec, execFailErase, memWrite_outside (by simpa using h)]

end Sys2Proof.Machine
end

section
/-! PROOFS. The operands from their words (spec 30_encoding.md R84, R85): lengths, sizes, byte arrays. -/

namespace Sys2Proof.Machine

/-- A 64-bit length as the number of its two halves (R33, R84). -/
theorem toNat_append_word (hi lo : Word) : (hi ++ lo).toNat = hi.toNat * 2 ^ 32 + lo.toNat := by
  rw [BitVec.toNat_append, ← Nat.shiftLeft_add_eq_or_of_lt lo.isLt, Nat.shiftLeft_eq]

/-- The low half of a length is the word written last there. -/
theorem extractLsb'_append_low (hi lo : Word) : (hi ++ lo).extractLsb' 0 32 = lo := by
  apply BitVec.eq_of_toNat_eq
  have := lo.isLt
  rw [BitVec.extractLsb'_toNat, toNat_append_word, Nat.shiftRight_zero]
  omega

/-- The length-framing block is the two lengths as R194 writes them. -/
theorem toList_lenBlock (s : State) : (lenBlock s).toList = lengthBlock s.alen.toNat s.dlen.toNat := by
  simp [lenBlock, lengthBlock, leBytes, Vector.toList_ofFn, List.ofFn_succ]

/-- Byte k after a word write (R63 (d), R85). -/
@[simp] theorem getElem_setWordAt {n : Nat} (v : Vector Byte n) (i : Nat) (x : Word) (k : Nat) (h : k < n) :
    (setWordAt v i x)[k] = if k / 4 = i then wordByte x (k % 4) else v[k] := by
  simp [setWordAt]

/-- A write of SIZES gives the three sizes as bytes of the word (R32, R84). -/
theorem toNat_sizes_ofWord (v : Word) :
    (Sizes.ofWord v).klen.toNat = v.toNat % 256 ∧ (Sizes.ofWord v).nlen.toNat = v.toNat / 2 ^ 8 % 256 ∧
      (Sizes.ofWord v).tlen.toNat = v.toNat / 2 ^ 16 % 256 := by
  simp [Sizes.ofWord, BitVec.extractLsb'_toNat, Nat.shiftRight_eq_div_pow]

/-- `leInt` of the two halves of the length block (R84, R198). -/
theorem leInt_lenBlock (s : State) :
    leInt ((lenBlock s).toList.take 8) = s.alen.toNat ∧ leInt ((lenBlock s).toList.drop 8) = s.dlen.toNat := by
  have hl : (leBytes 8 s.alen.toNat).toList.length = 8 := by simp
  rw [toList_lenBlock, lengthBlock, List.take_left' hl, List.drop_left' hl, leInt_leBytes, leInt_leBytes]
  exact ⟨Nat.mod_eq_of_lt s.alen.isLt, Nat.mod_eq_of_lt s.dlen.isLt⟩

/-- The writes of the two halves of ALEN while idle (R33, R84). -/
theorem writeGives_alen {s : State} (hp : s.PhaseNamed) (hb : s.status.busy = false) (lo hi : Word) :
    s.WriteGives 0x10 lo { s with alen := s.alen.extractLsb' 32 32 ++ lo } ∧
      State.WriteGives { s with alen := s.alen.extractLsb' 32 32 ++ lo } 0x14 hi { s with alen := hi ++ lo } := by
  have hn : ¬ s.status.busy = true := by simp [hb]
  refine ⟨writeGives_of_regWrite hp .alenLo (if_neg hn), writeGives_of_regWrite
    (s := { s with alen := s.alen.extractLsb' 32 32 ++ lo }) hp .alenHi ((if_neg hn).trans ?_)⟩
  dsimp only
  rw [extractLsb'_append_low]

/-- The writes of the two halves of DLEN while idle (R33, R84). -/
theorem writeGives_dlen {s : State} (hp : s.PhaseNamed) (hb : s.status.busy = false) (lo hi : Word) :
    s.WriteGives 0x18 lo { s with dlen := s.dlen.extractLsb' 32 32 ++ lo } ∧
      State.WriteGives { s with dlen := s.dlen.extractLsb' 32 32 ++ lo } 0x1C hi { s with dlen := hi ++ lo } := by
  have hn : ¬ s.status.busy = true := by simp [hb]
  refine ⟨writeGives_of_regWrite hp .dlenLo (if_neg hn), writeGives_of_regWrite
    (s := { s with dlen := s.dlen.extractLsb' 32 32 ++ lo }) hp .dlenHi ((if_neg hn).trans ?_)⟩
  dsimp only
  rw [extractLsb'_append_low]

/-- The write of SIZES while idle (R32). -/
theorem writeGives_sizes {s : State} (hp : s.PhaseNamed) (hb : s.status.busy = false) (v : Word) :
    s.WriteGives 0x08 v { s with sizes := Sizes.ofWord v } :=
  writeGives_of_regWrite hp .sizes (if_neg (by simp [hb]))

/-- Settles O43: each write of the descriptor by its `writeGives_` lemma, and what it assembles as numbers. -/
theorem operandAssembly : Obligations.OperandAssembly := by
  refine ⟨fun s lo hi hp hb => ⟨?_, ?_⟩, fun s v hp hb => ?_, fun s hp hb => writeGives_sizes hp hb _, leInt_lenBlock,
    fun v i x k => getElem_setWordAt v i x k k.isLt, fun v i x k => getElem_setWordAt v i x k k.isLt,
    fun v i x k => getElem_setWordAt v i x k k.isLt⟩
  · obtain ⟨hlo, hhi⟩ := writeGives_alen hp hb lo hi
    exact ⟨_, _, hlo, hhi, toNat_append_word hi lo, rfl⟩
  · obtain ⟨hlo, hhi⟩ := writeGives_dlen hp hb lo hi
    exact ⟨_, _, hlo, hhi, toNat_append_word hi lo, rfl⟩
  · obtain ⟨hk, hn, ht⟩ := toNat_sizes_ofWord v
    exact ⟨_, writeGives_sizes hp hb v, hk, hn, ht, rfl⟩

end Sys2Proof.Machine
end

section
/-! PROOFS. Runs of the core (spec 10_state.md R20, R26): steps put one after the other, no host move between. -/

namespace Sys2Proof.Machine

/-- Two runs, one after the other. -/
theorem runSteps_trans {j : Nat} {s t : State} (h : runSteps j s = .next t) (k : Nat) :
    runSteps (j + k) s = runSteps k t := by
  induction j generalizing s with
  | zero =>
    cases h
    rw [Nat.zero_add]
  | succ j ih =>
    cases hs : step s with
    | next u =>
      rw [runSteps_succ hs] at h
      rw [Nat.add_right_comm, runSteps_succ hs, ih h]
    | fault f => simp [runSteps, Host.Core.run, core, hs] at h
    | refused r => simp [runSteps, Host.Core.run, core, hs] at h

/-- One step is a run. -/
theorem runSteps_one {s t : State} (h : step s = .next t) : runSteps 1 s = .next t := runSteps_succ h 0

/-- One more step at the end of a run. -/
theorem runSteps_snoc {j : Nat} {s t u : State} (h : runSteps j s = .next t) (ht : step t = .next u) :
    runSteps (j + 1) s = .next u := (runSteps_trans h 1).trans (runSteps_one ht)

/-- The busy core acts next: no host move to come, or a `wait` before DONE (R89). It speaks of BUSY, DONE and the script
only, so it holds of every state that keeps them. -/
abbrev State.CoreActs (s : State) : Prop :=
  s.status.busy = true ∧ (s.script = [] ∨ ∃ rest, s.script = .wait :: rest ∧ s.status.done = false)

/-- When the core acts, the step is the unit operation PHASE names (R26). -/
theorem State.CoreActs.step_phase {s : State} (h : s.CoreActs) {i : Instr} (hd : decodePhase s.phase = .ok i) :
    step s = exec i s := by
  obtain ⟨hb, hs | ⟨rest, hs, hn⟩⟩ := h
  · exact step_of_phase hb hs hd
  · have hstep := step_wait_of_phase hb hd hn rest
    rwa [← hs] at hstep

/-- A phase by its code: when the core acts, the step is the instruction the code encodes. -/
theorem State.CoreActs.step_of_code {s : State} (h : s.CoreActs) {i : Instr} {p : BitVec 5} (hp : s.phase = p)
    (hd : encode i = some (.phase p)) : step s = exec i s :=
  h.step_phase (by rw [hp]; exact (encode_iff_decode i (.phase p)).1 hd)

end Sys2Proof.Machine
end

section
/-! PROOFS. The twenty round steps are the permutation (spec 40_word_primitives.md R106, R107), and the block and the
HChaCha20 phases are their functions (41_chacha20_block.md R122 to R125, 42_hchacha20.md R141 to R144). -/

namespace Sys2Proof.Machine

/-- The first n round steps from RND = 0 (R107). -/
def roundsFrom (w : CipherState) : Nat → CipherState
  | 0 => w
  | n + 1 => roundAt (BitVec.ofNat 5 n) (roundsFrom w n)

/-- Twenty round steps are the permutation: even ones column rounds, odd ones diagonal rounds (R106, R107). -/
theorem roundsFrom_twenty (w : CipherState) : roundsFrom w 20 = perm20 w := rfl

/-- Before the last round a round phase only advances the round (R107). -/
theorem roundPhase_of_lt {s : State} {n : Nat} (hn : n < 19) (hr : s.scr.rnd = BitVec.ofNat 5 n) (after : BitVec 5) :
    roundPhase after s = { s with
      scr := { s.scr with w := roundAt (BitVec.ofNat 5 n) s.scr.w, rnd := BitVec.ofNat 5 (n + 1) } } := by
  rcases roundPhase_cases after s with ⟨h, -⟩ | ⟨-, he⟩
  · have h19 : n % 2 ^ 5 = 19 := by rw [← BitVec.toNat_ofNat, ← hr, h]; rfl
    omega
  · rw [he, hr, BitVec.ofNat_add]
    rfl

section
variable {s : State} {after : BitVec 5}
  (hstep : ∀ c : Scratch, step { s with scr := c } = .next (roundPhase after { s with scr := c }))
include hstep

/-- The first rounds of a phase that is a round step. -/
theorem runSteps_rounds (hr : s.scr.rnd = 0) {n : Nat} (hn : n < 20) :
    runSteps n s = .next { s with
      scr := { s.scr with w := roundsFrom s.scr.w n, rnd := BitVec.ofNat 5 n } } := by
  induction n with
  | zero =>
    have h0 : BitVec.ofNat 5 0 = s.scr.rnd := hr.symm
    rw [h0]
    rfl
  | succ n ih =>
    refine runSteps_snoc (ih (by omega)) ((hstep _).trans ?_)
    rw [roundPhase_of_lt (by omega) rfl]
    rfl

/-- The twenty rounds of a phase that is a round step: the permutation, RND = 20 and the next phase (R123, R142). -/
theorem runSteps_perm20 (hr : s.scr.rnd = 0) :
    runSteps 20 s = .next { s with scr := { s.scr with w := perm20 s.scr.w, rnd := 20 }, phase := after } := by
  refine runSteps_snoc (runSteps_rounds hstep hr (n := 19) (by decide)) ((hstep _).trans ?_)
  rw [← roundsFrom_twenty]
  rfl

end

/-- The block phases: from BLK_LOAD, the keystream block of the counter, the cipher registers erased (R122 to R125). -/
theorem runSteps_block {s : State} (h : s.CoreActs) (hp : s.phase = Phase.blkLoad) :
    runSteps 22 s = .next { s with
      scr := { s.scr with
        ks := chacha20Block s.scr.subkey s.scr.ctr s.scr.cnonce, w := zeroWords, s0 := zeroWords, rnd := 0 }
      phase := if s.scr.ctr = 0 then Phase.otk else Phase.xor } := by
  have load : step s = _ := h.step_of_code (i := .blkLoad) hp rfl
  refine (runSteps_succ load 21).trans (runSteps_snoc (runSteps_perm20 (after := Phase.blkOut) (fun c => ?_) rfl) ?_)
  · exact State.CoreActs.step_of_code (by exact h) (i := .blkRound) rfl rfl
  · exact State.CoreActs.step_of_code (by exact h) (i := .blkOut) rfl rfl

/-- The HChaCha20 phases: from HC_LOAD, the sub-key, the nonce and the first block counter (R141 to R144). -/
theorem runSteps_hchacha {s : State} (h : s.CoreActs) (hp : s.phase = Phase.hcLoad) :
    runSteps 22 s = .next { s with
      scr := { s.scr with
        subkey := hchacha20 s.key (noncePrefix s.xnonce), cnonce := chachaNonce s.xnonce, w := zeroWords, rnd := 0
        ctr := if s.isEncrypt ∧ 0 < s.dlen.toNat then 1 else 0 }
      phase := Phase.blkLoad } := by
  have load : step s = _ := h.step_of_code (i := .hcLoad) hp rfl
  refine (runSteps_succ load 21).trans (runSteps_snoc (runSteps_perm20 (after := Phase.hcOut) (fun c => ?_) rfl) ?_)
  · exact State.CoreActs.step_of_code (by exact h) (i := .hcRound) rfl rfl
  · exact State.CoreActs.step_of_code (by exact h) (i := .hcOut) rfl rfl

end Sys2Proof.Machine
end

section
/-! PROOFS. The data of a command in chunks of 64 bytes (spec 43_xchacha20.md R152, R155): chunk by chunk the XOR phases
write `XChaCha20Xor` of the data. -/

namespace Sys2Proof.Machine

/-- A piece of a segment read on its own is that piece of the whole segment. -/
theorem readBytes_piece (m : Memory) (unit len off : Nat) :
    m.readBytes off (chunkLen unit len off) = ((m.readBytes 0 len).drop off).take unit := by
  refine List.ext_getElem (by simp [chunkLen]) fun t h1 h2 => ?_
  simp

/-- The keystream has 64 bytes per block (R126). -/
@[simp] theorem length_keystream (sk : Vector Byte 32) (cn : Vector Byte 12) (n : Nat) :
    (keystream sk cn n).length = 64 * n := by
  simp [keystream, Nat.mul_comm]

/-- Block j of the keystream is the block with counter 1 + j (R126, R152). -/
theorem keystream_block (sk : Vector Byte 32) (cn : Vector Byte 12) {n j : Nat} (hj : j < n) :
    ((keystream sk cn n).drop (64 * j)).take 64 = (chacha20Block sk (BitVec.ofNat 32 (1 + j)) cn).toList := by
  obtain ⟨k, rfl⟩ := Nat.exists_eq_add_of_lt hj
  have hsplit : ∃ l, keystream sk cn (j + k + 1) =
      keystream sk cn j ++ ((chacha20Block sk (BitVec.ofNat 32 (1 + j)) cn).toList ++ l) := by
    rw [Nat.add_assoc, keystream, List.range_add, List.flatMap_append, List.range_succ_eq_map]
    exact ⟨_, rfl⟩
  obtain ⟨l, hl⟩ := hsplit
  rw [hl, List.drop_left' (length_keystream sk cn j), List.take_left' (Vector.length_toList)]

/-- The data of a command under the keystream of its scratch registers (R152). -/
def cipherOut (s : State) : List Byte :=
  xorBytes s.dataBytes (keystream s.scr.subkey s.scr.cnonce (chunkCount s.dlen.toNat))

@[simp] theorem length_dataBytes (s : State) : s.dataBytes.length = s.dlen.toNat := Memory.length_readBytes _ _ _

theorem le_chunkCount (n : Nat) : n ≤ 64 * chunkCount n := by
  rw [chunkCount, chachaBlockSize]
  omega

theorem lt_of_lt_chunkCount {j n : Nat} (h : j < chunkCount n) : 64 * j < n := by
  rw [chunkCount, chachaBlockSize] at h
  omega

@[simp] theorem length_cipherOut (s : State) : (cipherOut s).length = s.dlen.toNat := by
  rw [cipherOut, length_xorBytes, length_keystream, length_dataBytes]
  exact Nat.min_eq_left (le_chunkCount _)

/-- One more chunk of the output: the next 64 bytes of data under the next block (R152, R155). -/
theorem take_cipherOut (s : State) {j : Nat} (hj : j < chunkCount s.dlen.toNat) :
    (cipherOut s).take (64 * (j + 1)) = (cipherOut s).take (64 * j) ++
      xorBytes (s.dbuf.readBytes (64 * j) (chunkLen chachaBlockSize s.dlen.toNat (64 * j)))
        (chacha20Block s.scr.subkey (BitVec.ofNat 32 (1 + j)) s.scr.cnonce).toList := by
  rw [Nat.mul_succ, List.take_add, cipherOut, readBytes_piece, ← keystream_block _ _ hj]
  simp only [xorBytes, List.drop_zipWith, List.take_zipWith]
  rfl

/-- Two scratch contents with the same keystream (R37). -/
abbrev Scratch.SameStream (c d : Scratch) : Prop := d.subkey = c.subkey ∧ d.cnonce = c.cnonce

/-- One chunk: from BLK_LOAD with a block counter of the data, the chunk at POS is XORed with its block, and POS moves
to its end (R155). -/
theorem runSteps_chunk {s : State} (h : s.CoreActs) (hp : s.phase = Phase.blkLoad) (hc : s.scr.ctr ≠ 0) {off : Nat}
    (hpos : s.scr.pos.toNat = off) (hoff : off < s.dlen.toNat) (hcap : s.dlen.toNat ≤ s.params.dbufCap) :
    ∃ c, runSteps 23 s = .next (xorNext { s with
        dbuf := s.dbuf.writeBytes off
          (xorBytes (s.dbuf.readBytes off (chunkLen chachaBlockSize s.dlen.toNat off))
            (chacha20Block s.scr.subkey s.scr.ctr s.scr.cnonce).toList)
        scr := c, phase := Phase.xor }) ∧
      s.scr.SameStream c ∧ c.ctr = s.scr.ctr ∧ c.pos.toNat = min (off + 64) s.dlen.toNat := by
  subst hpos
  have hseg : s.scr.pos.toNat + xorLen s ≤ s.params.dbufCap := (add_chunkLen_le (Nat.le_of_lt hoff)).trans hcap
  have hblock := runSteps_block h hp
  rw [if_neg hc] at hblock
  refine ⟨_, runSteps_snoc hblock ((State.CoreActs.step_of_code (by exact h) (i := .xor) rfl rfl).trans
    (execXor_eq (by exact hseg))), ⟨rfl, rfl⟩, rfl, ?_⟩
  have hd := s.dlen.isLt
  simp only [xorLen, chunkLen, chachaBlockSize, BitVec.toNat_add, BitVec.toNat_ofNat]
  omega

/-- The data stage after j chunks, with chunk j to come: DBUF holds the first `64 j` bytes of the output, CTR is `1 + j`
and POS is `64 j` (R155, R203). -/
def State.AtChunk (s : State) (j : Nat) : Prop :=
  ∃ c, runSteps (23 * j) s = .next { s with
      dbuf := s.dbuf.writeBytes 0 ((cipherOut s).take (64 * j)), scr := c, phase := Phase.blkLoad } ∧
    s.scr.SameStream c ∧ c.ctr = BitVec.ofNat 32 (1 + j) ∧ c.pos.toNat = 64 * j

section
variable {s : State} (h : s.CoreActs) (hcap : s.dlen.toNat ≤ s.params.dbufCap) (hmax : s.dlen.toNat ≤ ctrMaxDlen)
include h hcap hmax

/-- Chunk j of the data stage, up to the choice of what follows it. -/
theorem State.AtChunk.runSteps_xor {j : Nat} (hat : s.AtChunk j) (hj : j < chunkCount s.dlen.toNat) :
    ∃ c, runSteps (23 * (j + 1)) s = .next (xorNext { s with
        dbuf := s.dbuf.writeBytes 0 ((cipherOut s).take (64 * (j + 1))), scr := c, phase := Phase.xor }) ∧
      s.scr.SameStream c ∧ c.ctr = BitVec.ofNat 32 (1 + j) ∧ c.pos.toNat = min (64 * (j + 1)) s.dlen.toNat := by
  obtain ⟨c, hrun, ⟨hk, hn⟩, hctr, hpos⟩ := hat
  have hoff : 64 * j < s.dlen.toNat := lt_of_lt_chunkCount hj
  have hne : c.ctr ≠ 0 := by
    have hwrap : (1 + j) % 2 ^ 32 ≠ 0 := by
      rw [ctrMaxDlen] at hmax
      omega
    exact fun h0 => hwrap (by rw [← BitVec.toNat_ofNat, ← hctr, h0]; rfl)
  obtain ⟨d, hd, ⟨hk', hn'⟩, hctr', hpos'⟩ := runSteps_chunk (s := { s with
    dbuf := s.dbuf.writeBytes 0 ((cipherOut s).take (64 * j)), scr := c, phase := Phase.blkLoad })
    h rfl hne hpos hoff hcap
  refine ⟨d, ?_, ⟨hk'.trans hk, hn'.trans hn⟩, hctr'.trans hctr, hpos'⟩
  have hlen : ((cipherOut s).take (64 * j)).length = 64 * j := by
    rw [List.length_take, length_cipherOut]
    exact Nat.min_eq_left (Nat.le_of_lt hoff)
  rw [Nat.mul_succ, runSteps_trans hrun, hd, take_cipherOut s hj, Memory.writeBytes_append, hlen,
    Memory.readBytes_writeBytes_outside _ (.inr (by rw [hlen, Nat.zero_add])), hctr, hk, hn, Nat.zero_add]

variable (hp : s.phase = Phase.blkLoad) (hc : s.scr.ctr = 1) (hpos : s.scr.pos = 0)
include hp hc hpos

/-- Every chunk of the data is reached. -/
theorem atChunk_of_lt {j : Nat} (hj : j < chunkCount s.dlen.toNat) : s.AtChunk j := by
  induction j with
  | zero =>
    refine ⟨s.scr, ?_, ⟨rfl, rfl⟩, hc, by rw [hpos]; rfl⟩
    rw [← hp]
    rfl
  | succ j ih =>
    obtain ⟨c, hrun, hstream, hctr, hpos⟩ := (ih (by omega)).runSteps_xor h hcap hmax (by omega)
    have hlt := lt_of_lt_chunkCount hj
    refine ⟨{ c with ctr := c.ctr + 1 }, hrun.trans (congrArg _ (if_pos ?_)), hstream, ?_, ?_⟩
    · show c.pos.toNat < s.dlen.toNat
      omega
    · show c.ctr + 1 = _
      rw [hctr, ← Nat.add_assoc, BitVec.ofNat_add (1 + j)]
      rfl
    · show c.pos.toNat = _
      omega

/-- The whole data stage: DBUF holds the output; ENCRYPT goes on to the one-time-key block, DECRYPT to WIPE (R155,
R195). -/
theorem runSteps_data (hd : 0 < s.dlen.toNat) :
    ∃ c, runSteps (23 * chunkCount s.dlen.toNat) s = .next { s with
        dbuf := s.dbuf.writeBytes 0 (cipherOut s), scr := c
        phase := if s.isEncrypt then Phase.blkLoad else Phase.wipe } ∧
      s.scr.SameStream c ∧ (s.isEncrypt → c.ctr = 0) := by
  have hle := le_chunkCount s.dlen.toNat
  obtain ⟨j, hj⟩ : ∃ j, chunkCount s.dlen.toNat = j + 1 := Nat.exists_eq_add_one.2 (by omega)
  have hlt : j < chunkCount s.dlen.toNat := by omega
  obtain ⟨c, hrun, hstream, -, hend⟩ := (atChunk_of_lt h hcap hmax hp hc hpos hlt).runSteps_xor h hcap hmax hlt
  rw [hj] at hle ⊢
  have hnot : ¬ c.pos.toNat < s.dlen.toNat := by omega
  rw [List.take_of_length_le ((length_cipherOut s).trans_le hle)] at hrun
  have hnext := hrun.trans (congrArg _ (if_neg hnot))
  by_cases he : s.isEncrypt
  · rw [if_pos he]
    exact ⟨_, hnext.trans (congrArg _ (if_pos he)), hstream, fun _ => rfl⟩
  · rw [if_neg he]
    exact ⟨c, hnext.trans (congrArg _ (if_neg he)), hstream, fun h => absurd h he⟩

end

end Sys2Proof.Machine
end

section
/-! PROOFS. The tag of a command (spec 44_poly1305.md R172 to R178, 45_aead.md R194 to R198): the MAC phases absorb
`MacInput` block by block. -/

namespace Sys2Proof.Machine

/-- The accumulator after a message, from any accumulator (R175). -/
def macFrom (r acc : Nat) (msg : List Byte) : Nat :=
  (List.range (blockCount msg.length)).foldl (fun a j => absorb a r (blockVal (messageBlock msg j))) acc

theorem macAcc_eq_macFrom (r : Nat) (msg : List Byte) : macAcc r msg = macFrom r 0 msg := rfl

/-- After whole blocks the absorbing goes on with the rest of the message (R172, R175). -/
theorem macFrom_append (r acc : Nat) {x : List Byte} {k : Nat} (hx : x.length = 16 * k) (y : List Byte) :
    macFrom r acc (x ++ y) = macFrom r (macFrom r acc x) y := by
  have hcount : blockCount (x ++ y).length = blockCount x.length + blockCount y.length := by
    simp only [List.length_append, hx, blockCount, blockSize]
    omega
  have hk : blockCount x.length = k := by
    simp only [hx, blockCount, blockSize]
    omega
  have first (j : Nat) (hj : j ∈ List.range (blockCount x.length)) :
      messageBlock (x ++ y) j = messageBlock x j := by
    rw [List.mem_range, hk] at hj
    rw [messageBlock, messageBlock, blockSize, List.drop_append_of_le_length (by omega),
      List.take_append_of_le_length (by rw [List.length_drop]; omega)]
  have second (j : Nat) : messageBlock (x ++ y) (blockCount x.length + j) = messageBlock y j := by
    rw [messageBlock, messageBlock, hk, blockSize, Nat.mul_add, ← hx, List.drop_length_add_append]
  have hx' : (List.range (blockCount x.length)).foldl
      (fun a j => absorb a r (blockVal (messageBlock (x ++ y) j))) acc = macFrom r acc x :=
    List.foldl_ext _ _ _ fun a j hj => by rw [first j hj]
  rw [macFrom, hcount, List.range_add, List.foldl_append, List.foldl_map, hx']
  simp only [second]
  rfl

/-- One block (R175). -/
theorem macFrom_block (r acc : Nat) {b : List Byte} (hb : b.length = 16) :
    macFrom r acc b = absorb acc r (blockVal b) := by
  have h1 : messageBlock b 0 = b := List.take_of_length_le hb.le
  rw [macFrom, hb]
  exact congrArg (fun b => absorb acc r (blockVal b)) h1

/-- A padded segment is whole blocks (R194). -/
theorem length_pad16 (x : List Byte) : (pad16 x).length = 16 * blockCount x.length := by
  rw [pad16, List.length_append, List.length_replicate, blockCount, blockSize]
  omega

/-- The block a MAC phase pads is that block of the padded segment (R194, R196, R197). -/
theorem toList_padBlock (x : List Byte) {j : Nat} (hj : j < blockCount x.length) :
    (padBlock ((x.drop (16 * j)).take 16)).toList = messageBlock (pad16 x) j := by
  have hlen := length_pad16 x
  refine List.ext_getElem ?_ fun t h1 h2 => ?_
  · rw [Vector.length_toList, messageBlock, blockSize, List.length_take, List.length_drop, hlen]
    omega
  · have ht : t < 16 := by simpa using h1
    simp only [padBlock, Vector.getElem_toList, Vector.getElem_ofFn, messageBlock, blockSize, List.getElem_take,
      List.getElem_drop, pad16, List.getElem_append, List.getElem_replicate]
    split
    · next hin => simp [List.getD_eq_getElem?_getD, List.getElem?_drop, ht, hin]
    · next hout => simp [List.getD_eq_getElem?_getD, List.getElem?_drop, ht, hout]

/-- An empty segment is no block (R194). -/
theorem macFrom_pad16_nil (r acc : Nat) : macFrom r acc (pad16 []) = acc := by
  rw [macFrom, length_pad16]
  rfl

/-- One step of a MAC phase over the segment of `len` bytes that m holds (R196, R197). -/
def macSegStep (m : Memory) (len : BitVec 64) (after : BitVec 5) (s : State) : State :=
  let n := chunkLen blockSize len.toNat s.scr.mpos.toNat
  let acc := s.scr.absorbed (padBlock (m.readBytes s.scr.mpos.toNat n))
  if s.scr.mpos + BitVec.ofNat 64 n = len then { s with scr := { s.scr with acc := acc, mpos := 0 }, phase := after }
  else { s with scr := { s.scr with acc := acc, mpos := s.scr.mpos + BitVec.ofNat 64 n } }

/-- MAC_AAD is a segment step over the associated data (R196). -/
theorem exec_macAad_seg {s : State} (h : s.scr.mpos.toNat + aadLen s ≤ s.params.abufCap) :
    exec .macAad s = .next (macSegStep s.abuf s.alen (if 0 < s.dlen.toNat then Phase.macData else Phase.macLen) s) := by
  rw [exec, execMacAad_eq h, macSegStep, aadLen]
  dsimp only
  split <;> rfl

/-- MAC_DATA is a segment step over the data (R197). -/
theorem exec_macData_seg {s : State} (h : s.scr.mpos.toNat + dataLen s ≤ s.params.dbufCap) :
    exec .macData s = .next (macSegStep s.dbuf s.dlen Phase.macLen s) := by
  rw [exec, execMacData_eq h, macSegStep, dataLen]
  dsimp only
  split <;> rfl

/-- The accumulator a segment step leaves at block j is the padded segment's block j absorbed (R194, R196, R197). -/
theorem absorbed_piece (c : Scratch) (m : Memory) (len : Nat) {j : Nat} (hj : j < blockCount len) :
    c.absorbed (padBlock (m.readBytes (16 * j) (chunkLen blockSize len (16 * j)))) =
      absorb c.acc c.r (blockVal (messageBlock (pad16 (m.readBytes 0 len)) j)) := by
  rw [Scratch.absorbed, readBytes_piece, blockSize, toList_padBlock _ (by rwa [Memory.length_readBytes])]

/-- A segment step at block j: it goes on to the next block, or after the last one to the next phase (R196, R197). -/
theorem macSegStep_at (m : Memory) {len : BitVec 64} (after : BitVec 5) {s : State} {j : Nat}
    (hj : j < blockCount len.toNat) (hm : s.scr.mpos = BitVec.ofNat 64 (16 * j)) :
    let acc := absorb s.scr.acc s.scr.r (blockVal (messageBlock (pad16 (m.readBytes 0 len.toNat)) j))
    (j + 1 < blockCount len.toNat → macSegStep m len after s = { s with
      scr := { s.scr with acc := acc, mpos := BitVec.ofNat 64 (16 * (j + 1)) } }) ∧
    (j + 1 = blockCount len.toNat → macSegStep m len after s = { s with
      scr := { s.scr with acc := acc, mpos := 0 }, phase := after }) := by
  have hlen := len.isLt
  have hcount : blockCount len.toNat = (len.toNat + 15) / 16 := rfl
  have hpos : s.scr.mpos.toNat = 16 * j := by
    rw [hm, BitVec.toNat_ofNat]
    omega
  have hnext : s.scr.mpos + BitVec.ofNat 64 (chunkLen blockSize len.toNat (16 * j)) =
      BitVec.ofNat 64 (min (16 * (j + 1)) len.toNat) := by
    rw [hm, ← BitVec.ofNat_add, chunkLen, blockSize]
    congr 1
    omega
  rw [macSegStep, hpos, absorbed_piece _ _ _ hj, hnext]
  constructor
  · intro hlt
    rw [Nat.min_eq_left (by omega), if_neg]
    intro he
    have := congrArg BitVec.toNat he
    rw [BitVec.toNat_ofNat] at this
    omega
  · intro hlast
    rw [Nat.min_eq_right (by omega), if_pos (by simp)]

section
variable {s : State} {m : Memory} {len : BitVec 64} {after : BitVec 5}
  (hstep : ∀ c : Scratch, c.mpos.toNat < len.toNat →
    step { s with scr := c } = .next (macSegStep m len after { s with scr := c }))
  (hm : s.scr.mpos = 0)
include hstep hm

/-- A MAC phase after j blocks, one of them still to come: `MPOS = 16 j` (R196, R197). -/
theorem runSteps_macBlocks {j : Nat} (hj : j < blockCount len.toNat) :
    runSteps j s = .next { s with
      scr := { s.scr with
        acc := (List.range j).foldl (fun a i =>
          absorb a s.scr.r (blockVal (messageBlock (pad16 (m.readBytes 0 len.toNat)) i))) s.scr.acc
        mpos := BitVec.ofNat 64 (16 * j) } } := by
  induction j with
  | zero =>
    have h0 : BitVec.ofNat 64 (16 * 0) = s.scr.mpos := hm.symm
    rw [h0]
    rfl
  | succ j ih =>
    have hcount : blockCount len.toNat = (len.toNat + 15) / 16 := rfl
    refine runSteps_snoc (ih (by omega)) ((hstep _ ?_).trans ?_)
    · rw [BitVec.toNat_ofNat]
      omega
    · rw [(macSegStep_at m after (by omega) rfl).1 hj, List.range_succ, List.foldl_append]
      rfl

/-- A whole MAC phase, of as many steps as its segment has blocks: none when the segment is empty and the phase skipped
(R176, R196, R197, R203). -/
theorem runSteps_macSegment (hempty : len.toNat = 0 → s.phase = after) :
    runSteps (blockCount len.toNat) s = .next { s with
      scr := { s.scr with acc := macFrom s.scr.r s.scr.acc (pad16 (m.readBytes 0 len.toNat)), mpos := 0 }
      phase := after } := by
  have hcount : blockCount len.toNat = (len.toNat + 15) / 16 := rfl
  rcases Nat.eq_zero_or_pos len.toNat with h0 | hpos
  · have hcount0 : blockCount len.toNat = 0 := by omega
    rw [hcount0, h0, ← hempty h0, ← hm, Memory.readBytes, List.range_zero, List.map_nil, macFrom_pad16_nil]
    rfl
  · obtain ⟨j, hj⟩ : ∃ j, blockCount len.toNat = j + 1 := Nat.exists_eq_add_one.2 (by omega)
    have hlast : macFrom s.scr.r s.scr.acc (pad16 (m.readBytes 0 len.toNat)) =
        (List.range (j + 1)).foldl (fun a i =>
          absorb a s.scr.r (blockVal (messageBlock (pad16 (m.readBytes 0 len.toNat)) i))) s.scr.acc := by
      have hblocks : blockCount (pad16 (m.readBytes 0 len.toNat)).length = j + 1 := by
        rw [length_pad16, Memory.length_readBytes, hj, blockCount, blockSize]
        omega
      rw [macFrom, hblocks]
    rw [hj, hlast, List.range_succ, List.foldl_append]
    refine runSteps_snoc (runSteps_macBlocks hstep hm (j := j) (by omega)) ((hstep _ ?_).trans ?_)
    · rw [BitVec.toNat_ofNat]
      omega
    · rw [(macSegStep_at m after (by omega) rfl).2 hj.symm]
      rfl

end

/-- The tag of `MacInput` from its three parts (R175, R194). -/
theorem poly1305Mac_macInput (otk : Vector Byte 32) (aad ct : List Byte) :
    poly1305Mac otk (macInput aad ct) =
      macTag (absorb (macFrom (macR otk) (macFrom (macR otk) 0 (pad16 aad)) (pad16 ct)) (macR otk)
        (blockVal (lengthBlock aad.length ct.length))) (macS otk) := by
  have hl : (lengthBlock aad.length ct.length).length = 16 := by simp [lengthBlock]
  have hlen : (pad16 aad ++ pad16 ct).length = 16 * (blockCount aad.length + blockCount ct.length) := by
    rw [List.length_append, length_pad16, length_pad16, Nat.mul_add]
  rw [poly1305Mac, macInput, macAcc_eq_macFrom, macFrom_append _ _ hlen, macFrom_append _ _ (length_pad16 aad),
    macFrom_block _ _ hl]

/-- Both MAC phases: of each segment its blocks, an empty one's phase skipped (R176, R196, R197, R203). -/
theorem runSteps_macSegments {s : State} (h : s.CoreActs) (hm : s.scr.mpos = 0)
    (hp : s.phase = if 0 < s.alen.toNat then Phase.macAad
      else if 0 < s.dlen.toNat then Phase.macData else Phase.macLen)
    (hacap : s.alen.toNat ≤ s.params.abufCap) (hdcap : s.dlen.toNat ≤ s.params.dbufCap) :
    runSteps (blockCount s.alen.toNat + blockCount s.dlen.toNat) s = .next { s with
      scr := { s.scr with
        acc := macFrom s.scr.r (macFrom s.scr.r s.scr.acc (pad16 s.aadBytes)) (pad16 s.dataBytes), mpos := 0 }
      phase := Phase.macLen } := by
  have aad := runSteps_macSegment (s := s) (m := s.abuf) (len := s.alen)
    (after := if 0 < s.dlen.toNat then Phase.macData else Phase.macLen) (fun c hlt => ?_) hm
    (fun h0 => hp.trans (if_neg (by omega)))
  · refine (runSteps_trans aad _).trans (runSteps_macSegment (m := s.dbuf) (len := s.dlen) (fun c hlt => ?_) rfl
      fun h0 => if_neg (Nat.not_lt.2 h0.le))
    refine (State.CoreActs.step_of_code (by exact h) (i := .macData) (if_pos ?_) rfl).trans (exec_macData_seg ?_)
    · exact Nat.zero_lt_of_lt hlt
    · exact (add_chunkLen_le (Nat.le_of_lt hlt)).trans hdcap
  · refine (State.CoreActs.step_of_code (s := { s with scr := c }) h (i := .macAad) (hp.trans (if_pos ?_)) rfl).trans
      (exec_macAad_seg ?_)
    · exact Nat.zero_lt_of_lt hlt
    · exact (add_chunkLen_le (Nat.le_of_lt hlt)).trans hacap

/-- The one-time key: from BLK_LOAD with the block counter zero, the first half of the block loads the MAC registers,
and the first MAC phase with something to absorb is next (R154, R176, R195). -/
theorem runSteps_otk {s : State} (h : s.CoreActs) (hp : s.phase = Phase.blkLoad) (hc : s.scr.ctr = 0) :
    ∃ c, runSteps 24 s = .next { s with
        scr := c
        phase := if 0 < s.alen.toNat then Phase.macAad
          else if 0 < s.dlen.toNat then Phase.macData else Phase.macLen } ∧
      s.scr.SameStream c ∧ c.pos = s.scr.pos ∧ c.mpos = 0 ∧ c.acc = 0 ∧
      c.r = macR (firstHalf (chacha20Block s.scr.subkey 0 s.scr.cnonce)) ∧
      c.s = macS (firstHalf (chacha20Block s.scr.subkey 0 s.scr.cnonce)) := by
  have hblock := runSteps_block h hp
  rw [if_pos hc, hc] at hblock
  have hotk := runSteps_snoc hblock (State.CoreActs.step_of_code (by exact h) (i := .otk) rfl rfl)
  obtain ⟨k, hk, hkey⟩ : ∃ k, k = firstHalf (chacha20Block s.scr.subkey 0 s.scr.cnonce) ∧
      runSteps 23 s = .next { s with
        scr := { s.scr with ks := zeroBytes 64, w := zeroWords, s0 := zeroWords, rnd := 0, otk := k }
        phase := Phase.macInit } := ⟨_, rfl, hotk⟩
  have hinit := runSteps_snoc hkey (State.CoreActs.step_of_code (by exact h) (i := .macInit) rfl rfl)
  rw [← hk]
  exact ⟨_, hinit, ⟨rfl, rfl⟩, rfl, rfl, rfl, rfl, rfl⟩

/-- The end of the tag: from MAC_LEN, the length block is absorbed and the tag computed (R178, R198). -/
theorem runSteps_macEnd {s : State} (h : s.CoreActs) (hp : s.phase = Phase.macLen) :
    ∃ c, runSteps 2 s = .next { s with scr := c, phase := if s.isEncrypt then Phase.tagOut else Phase.tagCmp } ∧
      s.scr.SameStream c ∧ c.pos = s.scr.pos ∧
      c.ctag = macTag (absorb s.scr.acc s.scr.r (blockVal (lengthBlock s.alen.toNat s.dlen.toNat))) s.scr.s := by
  have hacc : s.scr.absorbed (lenBlock s) =
      absorb s.scr.acc s.scr.r (blockVal (lengthBlock s.alen.toNat s.dlen.toNat)) := by
    rw [Scratch.absorbed, toList_lenBlock]
  obtain ⟨a, b, ha, hlen⟩ : ∃ a b, a = s.scr.absorbed (lenBlock s) ∧ runSteps 1 s = .next { s with
      scr := { s.scr with acc := a, lenblk := b }, phase := Phase.macFinal } :=
    ⟨_, _, rfl, runSteps_one (h.step_of_code (i := .macLen) hp rfl)⟩
  have hfinal := runSteps_snoc hlen (State.CoreActs.step_of_code (by exact h) (i := .macFinal) rfl rfl)
  rw [← hacc, ← ha]
  exact ⟨_, hfinal, ⟨rfl, rfl⟩, rfl, rfl⟩

@[simp] theorem length_aadBytes (s : State) : s.aadBytes.length = s.alen.toNat := Memory.length_readBytes _ _ _

/-- The tag stage: from BLK_LOAD with the block counter zero, one block, the one-time key, the MAC of both segments and
the length block; TAG is next compared or written (R195, R203). -/
theorem runSteps_tag {s : State} (h : s.CoreActs) (hp : s.phase = Phase.blkLoad) (hc : s.scr.ctr = 0)
    (hacap : s.alen.toNat ≤ s.params.abufCap) (hdcap : s.dlen.toNat ≤ s.params.dbufCap) :
    ∃ c, runSteps (26 + blockCount s.alen.toNat + blockCount s.dlen.toNat) s = .next { s with
        scr := c, phase := if s.isEncrypt then Phase.tagOut else Phase.tagCmp } ∧
      s.scr.SameStream c ∧ c.pos = s.scr.pos ∧
      c.ctag =
        poly1305Mac (firstHalf (chacha20Block s.scr.subkey 0 s.scr.cnonce)) (macInput s.aadBytes s.dataBytes) := by
  obtain ⟨c, hotk, ⟨hk, hn⟩, hpos, hm, hacc, hr, hs⟩ := runSteps_otk h hp hc
  have hmac := (runSteps_trans hotk _).trans (runSteps_macSegments (by exact h) hm rfl hacap hdcap)
  obtain ⟨d, hend, ⟨hk', hn'⟩, hpos', htag⟩ := runSteps_macEnd (s := { s with
    scr := { c with
      acc := macFrom c.r (macFrom c.r c.acc (pad16 s.aadBytes)) (pad16 s.dataBytes), mpos := 0 }
    phase := Phase.macLen }) h rfl
  have hcount : 26 + blockCount s.alen.toNat + blockCount s.dlen.toNat =
    24 + (blockCount s.alen.toNat + blockCount s.dlen.toNat) + 2 := by omega
  refine ⟨d, ?_, ⟨hk'.trans hk, hn'.trans hn⟩, hpos'.trans hpos, ?_⟩
  · rw [hcount]
    exact (runSteps_trans hmac 2).trans hend
  · rw [htag, poly1305Mac_macInput, length_aadBytes, length_dataBytes, ← hr, ← hs, hacc]

end Sys2Proof.Machine
end

section
/-! PROOFS. Whole commands (spec 45_aead.md R192, R193, R203, 60_exceptions.md R233): from START with a legal descriptor
the steps R203 counts end in the state the command's function gives. -/

namespace Sys2Proof.Machine

/-- A command just started (R190) whose descriptor is legal (R191). -/
structure State.Started (s : State) : Prop where
  acts : s.CoreActs
  phase : s.phase = Phase.check
  status : s.status = { busy := true, done := false, err := 0, errInfo := 0 }
  erased : s.scr = Scratch.zero
  dbuf : s.dbuf.wf
  legal : contractFailure s = none

/-- Both segments of a command with a legal descriptor lie in their buffers, and the data is not too long (R191). -/
theorem State.Started.lengths_le {s : State} (h : s.Started) :
    s.alen.toNat ≤ s.params.abufCap ∧ s.dlen.toNat ≤ s.params.dbufCap ∧ s.dlen.toNat ≤ ctrMaxDlen := by
  obtain ⟨-, -, -, -, hlen⟩ := (contractFailure_none_iff s).1 h.legal
  exact hlen

/-- The first 23 steps of a command: CHECK passes, and HChaCha20 gives the sub-key, the nonce and the first counter. -/
theorem State.Started.runSteps_subkey {s : State} (h : s.Started) :
    ∃ c, runSteps 23 s = .next { s with scr := c, phase := Phase.blkLoad } ∧
      c.subkey = hchacha20 s.key (noncePrefix s.xnonce) ∧ c.cnonce = chachaNonce s.xnonce ∧ c.pos = 0 ∧
      c.ctr = if s.isEncrypt ∧ 0 < s.dlen.toNat then 1 else 0 := by
  have hcheck : step s = .next (s.setPhase Phase.hcLoad) := by
    rw [h.acts.step_of_code (i := .check) h.phase rfl, exec, execCheck, h.legal]
  have hrun := (runSteps_succ hcheck 22).trans (runSteps_hchacha h.acts rfl)
  refine ⟨_, hrun, rfl, rfl, ?_, rfl⟩
  show s.scr.pos = 0
  rw [h.erased]
  rfl

/-- The data stage of either command, none when there is no data (R155, R195, R203). -/
theorem runSteps_dataStage {s : State} (h : s.CoreActs) (hcap : s.dlen.toNat ≤ s.params.dbufCap)
    (hmax : s.dlen.toNat ≤ ctrMaxDlen) (hpos : s.scr.pos = 0) (hsome : 0 < s.dlen.toNat → s.phase = Phase.blkLoad)
    (hone : 0 < s.dlen.toNat → s.scr.ctr = 1)
    (hnone : s.dlen.toNat = 0 → s.phase = if s.isEncrypt then Phase.blkLoad else Phase.wipe)
    (hzero : s.dlen.toNat = 0 → s.isEncrypt → s.scr.ctr = 0) :
    ∃ c, runSteps (23 * chunkCount s.dlen.toNat) s = .next { s with
        dbuf := s.dbuf.writeBytes 0 (cipherOut s), scr := c
        phase := if s.isEncrypt then Phase.blkLoad else Phase.wipe } ∧
      s.scr.SameStream c ∧ (s.isEncrypt → c.ctr = 0) := by
  rcases Nat.eq_zero_or_pos s.dlen.toNat with h0 | hd
  · have hout : cipherOut s = [] := List.length_eq_zero_iff.1 ((length_cipherOut s).trans h0)
    refine ⟨s.scr, ?_, ⟨rfl, rfl⟩, hzero h0⟩
    rw [hout, h0, ← hnone h0]
    rfl
  · exact runSteps_data h hcap hmax (hsome hd) (hone hd) hpos hd

/-- Under the sub-key and nonce of HChaCha20 the output of the data stage is `XChaCha20Xor` (R152). -/
theorem cipherOut_eq {s : State} (hk : s.scr.subkey = hchacha20 s.key (noncePrefix s.xnonce))
    (hn : s.scr.cnonce = chachaNonce s.xnonce) : cipherOut s = xchacha20Xor s.key s.xnonce s.dataBytes := by
  rw [cipherOut, hk, hn, xchacha20Xor, length_dataBytes, chunkCount]

/-- Under the sub-key and nonce of HChaCha20 the tag stage computes the tag of R192 and R193. -/
theorem runSteps_authTag {s : State} (h : s.CoreActs) (hp : s.phase = Phase.blkLoad) (hc : s.scr.ctr = 0)
    (hk : s.scr.subkey = hchacha20 s.key (noncePrefix s.xnonce)) (hn : s.scr.cnonce = chachaNonce s.xnonce)
    (hacap : s.alen.toNat ≤ s.params.abufCap) (hdcap : s.dlen.toNat ≤ s.params.dbufCap) :
    ∃ c, runSteps (26 + blockCount s.alen.toNat + blockCount s.dlen.toNat) s = .next { s with
        scr := c, phase := if s.isEncrypt then Phase.tagOut else Phase.tagCmp } ∧
      s.scr.SameStream c ∧ c.pos = s.scr.pos ∧ c.ctag = authTag s.key s.xnonce s.aadBytes s.dataBytes := by
  obtain ⟨c, hrun, hstream, hpos, htag⟩ := runSteps_tag h hp hc hacap hdcap
  rw [hk, hn] at htag
  exact ⟨c, hrun, hstream, hpos, htag⟩

/-- The last step of every command leaves KEY, scratch, STATUS and PHASE as R192 and R193 say (R214). -/
theorem State.CoreActs.step_wipe {s : State} (h : s.CoreActs) (hp : s.phase = Phase.wipe) :
    step s = .next (endOfCommand s.status.err s.status.errInfo s) := h.step_of_code (i := .wipe) hp rfl

/-- The data written by the data stage is the data read afterwards. -/
theorem dataBytes_writeBytes {s : State} (hwf : s.dbuf.wf) {bs : List Byte} (hl : bs.length = s.dlen.toNat) :
    State.dataBytes { s with dbuf := s.dbuf.writeBytes 0 bs } = bs := by
  rw [State.dataBytes, ← hl, Memory.readBytes_writeBytes_same hwf]

/-- The first stages of ENCRYPT: the ciphertext in DBUF, the block counter at zero for the one-time key (R192, R203). -/
theorem State.Started.runSteps_ciphertext {s : State} (h : s.Started) (ho : s.isEncrypt) :
    ∃ c, runSteps (23 + 23 * chunkCount s.dlen.toNat) s = .next { s with
        dbuf := s.dbuf.writeBytes 0 (xchacha20Xor s.key s.xnonce s.dataBytes), scr := c, phase := Phase.blkLoad } ∧
      c.subkey = hchacha20 s.key (noncePrefix s.xnonce) ∧ c.cnonce = chachaNonce s.xnonce ∧ c.ctr = 0 := by
  obtain ⟨-, hdcap, hmax⟩ := h.lengths_le
  obtain ⟨c, hsub, hk, hn, hpos, hctr⟩ := h.runSteps_subkey
  obtain ⟨d, hdata, ⟨hk', hn'⟩, hz⟩ := runSteps_dataStage (s := { s with scr := c, phase := Phase.blkLoad })
    h.acts hdcap hmax hpos (fun _ => rfl) (fun hd => hctr.trans (if_pos ⟨ho, hd⟩)) (fun _ => (if_pos ho).symm)
    (fun h0 _ => hctr.trans (if_neg fun hd => absurd hd.2 (Nat.not_lt.2 h0.le)))
  rw [if_pos ho, cipherOut_eq hk hn] at hdata
  exact ⟨d, (runSteps_trans hsub _).trans hdata, hk'.trans hk, hn'.trans hn, hz ho⟩

/-- XChaCha20Xor keeps the length (R152). -/
@[simp] theorem length_xchacha20Xor (key : Vector Byte 32) (xn : Vector Byte 24) (data : List Byte) :
    (xchacha20Xor key xn data).length = data.length := by
  rw [xchacha20Xor, length_xorBytes, length_keystream]
  exact Nat.min_eq_left (le_chunkCount _)

/-- ENCRYPT of a legal descriptor ends as R192 says, after the steps R203 counts. -/
theorem State.Started.runSteps_encrypt {s : State} (h : s.Started) (ho : s.isEncrypt) :
    runSteps (commandSteps s) s = .next (encryptEnd s) := by
  obtain ⟨hacap, hdcap, -⟩ := h.lengths_le
  obtain ⟨c, hdata, hk, hn, hz⟩ := h.runSteps_ciphertext ho
  obtain ⟨d, htag, -, -, hctag⟩ := runSteps_authTag (s := { s with
    dbuf := s.dbuf.writeBytes 0 (xchacha20Xor s.key s.xnonce s.dataBytes), scr := c, phase := Phase.blkLoad })
    h.acts rfl hz hk hn hacap hdcap
  rw [if_pos ho] at htag
  have hct : d.ctag = authTag s.key s.xnonce s.aadBytes (xchacha20Xor s.key s.xnonce s.dataBytes) :=
    hctag.trans (congrArg (authTag s.key s.xnonce s.aadBytes) (dataBytes_writeBytes h.dbuf (by simp)))
  have hout := runSteps_snoc htag (State.CoreActs.step_of_code (by exact h.acts) (i := .tagOut) rfl rfl)
  have hwipe := runSteps_snoc hout (State.CoreActs.step_wipe (by exact h.acts) rfl)
  have hcount : commandSteps s = 23 + 23 * chunkCount s.dlen.toNat +
      (26 + blockCount s.alen.toNat + blockCount s.dlen.toNat + 1 + 1) := by
    rw [commandSteps]
    omega
  rw [hcount, runSteps_trans hdata]
  refine hwipe.trans ?_
  show Host.Outcome.next (endOfCommand s.status.err s.status.errInfo { s with
    dbuf := s.dbuf.writeBytes 0 (xchacha20Xor s.key s.xnonce s.dataBytes), tag := d.ctag }) = _
  rw [h.status, hct]
  rfl

/-- TAG_CMP on equal tags: the data is current next, or without data the command is over (R200). -/
theorem exec_tagCmp_equal {s : State} (he : s.scr.ctag = s.tag) :
    exec .tagCmp s = .next { s with
      scr := { s.scr with diff := 0, ctr := if 0 < s.dlen.toNat then 1 else s.scr.ctr }
      phase := if 0 < s.dlen.toNat then Phase.blkLoad else Phase.wipe } := by
  rw [exec, execTagCmp, (tagDiff_eq_zero_iff _ _).2 he]
  dsimp only
  rw [if_pos rfl]
  split <;> rfl

/-- TAG_CMP on differing tags raises AuthenticationFailed (R200, R233). -/
theorem exec_tagCmp_differ {s : State} (he : s.scr.ctag ≠ s.tag) :
    exec .tagCmp s = .next (raiseAuthenticationFailed
      { s with scr := { s.scr with diff := tagDiff s.scr.ctag s.tag } }) :=
  if_neg fun hd => he ((tagDiff_eq_zero_iff _ _).1 hd)

/-- The stages of DECRYPT up to TAG_CMP: the tag of the data as it stands (R193, R203). -/
theorem State.Started.runSteps_tagCmp {s : State} (h : s.Started) (ho : s.opc = opcDecrypt) :
    ∃ c, runSteps (49 + blockCount s.alen.toNat + blockCount s.dlen.toNat) s = .next { s with
        scr := c, phase := Phase.tagCmp } ∧
      c.subkey = hchacha20 s.key (noncePrefix s.xnonce) ∧ c.cnonce = chachaNonce s.xnonce ∧ c.pos = 0 ∧
      c.ctag = authTag s.key s.xnonce s.aadBytes s.dataBytes := by
  obtain ⟨hacap, hdcap, -⟩ := h.lengths_le
  have hne : ¬ s.isEncrypt := by rw [State.isEncrypt, ho]; decide
  obtain ⟨c, hsub, hk, hn, hpos, hctr⟩ := h.runSteps_subkey
  obtain ⟨d, htag, ⟨hk', hn'⟩, hpos', hctag⟩ := runSteps_authTag (s := { s with scr := c, phase := Phase.blkLoad })
    h.acts rfl (hctr.trans (if_neg fun hd => hne hd.1)) hk hn hacap hdcap
  rw [if_neg hne] at htag
  have hcount : 49 + blockCount s.alen.toNat + blockCount s.dlen.toNat =
      23 + (26 + blockCount s.alen.toNat + blockCount s.dlen.toNat) := by omega
  rw [hcount]
  exact ⟨d, (runSteps_trans hsub _).trans htag, hk'.trans hk, hn'.trans hn, hpos'.trans hpos, hctag⟩

/-- DECRYPT of a legal descriptor with the computed tag ends as R193 says, after the steps R203 counts. -/
theorem State.Started.runSteps_decrypt {s : State} (h : s.Started) (ho : s.opc = opcDecrypt)
    (ht : s.tag = authTag s.key s.xnonce s.aadBytes s.dataBytes) :
    runSteps (commandSteps s) s = .next (decryptEnd s) := by
  obtain ⟨-, hdcap, hmax⟩ := h.lengths_le
  have hne : ¬ s.isEncrypt := by rw [State.isEncrypt, ho]; decide
  obtain ⟨c, htag, hk, hn, hpos, hctag⟩ := h.runSteps_tagCmp ho
  have hcmp := runSteps_snoc htag ((State.CoreActs.step_of_code (by exact h.acts) (i := .tagCmp) rfl rfl).trans
    (exec_tagCmp_equal (hctag.trans ht.symm)))
  obtain ⟨d, hdata, -, -⟩ := runSteps_dataStage (s := { s with
    scr := { c with diff := 0, ctr := if 0 < s.dlen.toNat then 1 else c.ctr }
    phase := if 0 < s.dlen.toNat then Phase.blkLoad else Phase.wipe }) h.acts hdcap hmax hpos (fun hd => if_pos hd)
    (fun hd => if_pos hd) (fun h0 => (if_neg (Nat.not_lt.2 h0.le)).trans (if_neg hne).symm) (fun _ he => absurd he hne)
  rw [if_neg hne, cipherOut_eq hk hn] at hdata
  have hwipe := runSteps_snoc hdata (State.CoreActs.step_wipe (by exact h.acts) rfl)
  have hcount : commandSteps s = 49 + blockCount s.alen.toNat + blockCount s.dlen.toNat + 1 +
      (23 * chunkCount s.dlen.toNat + 1) := by
    rw [commandSteps]
    omega
  rw [hcount, runSteps_trans hcmp, decryptEnd, if_pos ((tagDiff_eq_zero_iff _ _).2 ht.symm)]
  refine hwipe.trans ?_
  show Host.Outcome.next (endOfCommand s.status.err s.status.errInfo { s with
    dbuf := s.dbuf.writeBytes 0 (xchacha20Xor s.key s.xnonce s.dataBytes) }) = _
  rw [h.status]
  rfl

/-- DECRYPT of a legal descriptor with another tag ends as R193 and R233 say, after the steps R203 counts. -/
theorem State.Started.runSteps_decrypt_failed {s : State} (h : s.Started) (ho : s.opc = opcDecrypt)
    (ht : s.tag ≠ authTag s.key s.xnonce s.aadBytes s.dataBytes) :
    runSteps (failedSteps s) s = .next (decryptEnd s) := by
  obtain ⟨-, hdcap, -⟩ := h.lengths_le
  obtain ⟨c, htag, -, -, -, hctag⟩ := h.runSteps_tagCmp ho
  have hcmp := runSteps_snoc htag ((State.CoreActs.step_of_code (by exact h.acts) (i := .tagCmp) rfl rfl).trans
    (exec_tagCmp_differ (hctag.trans_ne ht.symm)))
  have herase := runSteps_snoc hcmp ((State.CoreActs.step_of_code (by exact h.acts) (i := .failErase) rfl rfl).trans
    (execFailErase_eq hdcap))
  have hwipe := runSteps_snoc herase (State.CoreActs.step_wipe (by exact h.acts) rfl)
  have hcount : failedSteps s = 49 + blockCount s.alen.toNat + blockCount s.dlen.toNat + 1 + 1 + 1 := by
    rw [failedSteps]
    omega
  have hdiff : ¬ tagDiff (authTag s.key s.xnonce s.aadBytes s.dataBytes) s.tag = 0 :=
    fun hd => ht ((tagDiff_eq_zero_iff _ _).1 hd).symm
  rw [hcount, decryptEnd, if_neg hdiff, length_dataBytes]
  refine hwipe.trans ?_
  show Host.Outcome.next (endOfCommand errAuthentication s.status.errInfo { s with
    dbuf := s.dbuf.writeBytes 0 (List.replicate s.dlen.toNat 0) }) = _
  rw [h.status]
  rfl

end Sys2Proof.Machine
end

section
/-! PROOFS. Host scripts (spec 30_encoding.md R85, R89, R90): array writes, the descriptor, `wait`, and the two
pseudo-instructions whole. -/

namespace Sys2Proof.Machine

/-- Byte j of the word at `4 i` of an array is the array's byte `4 i + j` (R63 (a), R85). -/
theorem wordByte_wordAt {n : Nat} (a : Vector Byte n) {i k : Nat} (h : 4 * i + 3 < n) (hk : k < n) (hi : k / 4 = i) :
    wordByte (wordAt a (4 * i) h) (k % 4) = a[k] := by
  obtain ⟨h0, h1, h2, h3⟩ := wordByte_le32 a[4 * i] a[4 * i + 1] a[4 * i + 2] a[4 * i + 3]
  have hcases : k % 4 = 0 ∨ k % 4 = 1 ∨ k % 4 = 2 ∨ k % 4 = 3 := by omega
  rcases hcases with hj | hj | hj | hj
  all_goals
    simp only [wordAt, hj, h0, h1, h2, h3]
    congr 1
    omega

section
variable {n m : Nat} (hm : n = 4 * m) (a : Vector Byte n)

/-- Writing the words of an array a, those of a list of indices, over an array v (R85). -/
def writeWords (l : List (Fin m)) (v : Vector Byte n) : Vector Byte n :=
  l.foldl (fun v i => setWordAt v i.val (wordAt a (4 * i.val) (by omega))) v

/-- A byte is the array's where its word is among those written. -/
theorem getElem_writeWords (l : List (Fin m)) (v : Vector Byte n) (k : Nat) (hk : k < n) :
    (writeWords hm a l v)[k] = if ∃ i ∈ l, k / 4 = i.val then a[k] else v[k] := by
  induction l generalizing v with
  | nil => simp [writeWords]
  | cons i l ih =>
    have hcons : writeWords hm a (i :: l) v =
      writeWords hm a l (setWordAt v i.val (wordAt a (4 * i.val) (by omega))) := rfl
    rw [hcons, ih, getElem_setWordAt]
    by_cases hi : k / 4 = i.val
    · simp [hi, wordByte_wordAt a (by omega) hk hi]
    · simp [hi]

/-- All the words of an array written: the array (R85). -/
theorem writeWords_finRange (v : Vector Byte n) : writeWords hm a (List.finRange m) v = a := by
  apply Vector.ext
  intro k hk
  rw [getElem_writeWords, if_pos ⟨⟨k / 4, by omega⟩, List.mem_finRange _, rfl⟩]

/-- The word writes of an array register leave the array in it (R85, R89); `set` is the state by that register. -/
theorem runSteps_writeWords (r : Fin m → HostReg) (set : Vector Byte n → State) (hp : ∀ v, (set v).PhaseNamed)
    (hset : ∀ v i w, regWrite (r i) w (set v) = set (setWordAt v i.val w)) (v : Vector Byte n) (rest : List HostMove) :
    runSteps m { set v with
        script := (List.finRange m).map (fun i => wrReg (r i) (wordAt a (4 * i.val) (by omega))) ++ rest } =
      .next { set a with script := rest } := by
  have run (l : List (Fin m)) : runSteps l.length { set v with
        script := l.map (fun i => wrReg (r i) (wordAt a (4 * i.val) (by omega))) ++ rest } =
      .next { set (writeWords hm a l v) with script := rest } := by
    induction l generalizing v with
    | nil => rfl
    | cons i l ih =>
      have hw := writeGives_regWrite (hp v) (decodeRegOffset_offset (r i)) (wordAt a (4 * i.val) (by omega))
      rw [hset] at hw
      exact (runSteps_succ (hw _) l.length).trans (ih _)
  have hall := run (List.finRange m)
  rwa [List.length_finRange, writeWords_finRange] at hall

end

section
variable {s : State} (hp : s.PhaseNamed) (hb : s.status.busy = false) (rest : List HostMove)
include hp hb

/-- `wrk` while idle (R89). -/
theorem runSteps_wrk (key : Vector Byte 32) :
    runSteps 8 { s with script := wrk key ++ rest } = .next { s with key := key, script := rest } :=
  runSteps_writeWords (m := 8) rfl key HostReg.key (fun v => { s with key := v }) (fun _ => hp)
    (fun _ _ _ => if_neg (by simp [hb])) s.key rest

/-- `wrn` while idle (R89). -/
theorem runSteps_wrn (xn : Vector Byte 24) :
    runSteps 6 { s with script := wrn xn ++ rest } = .next { s with xnonce := xn, script := rest } :=
  runSteps_writeWords (m := 6) rfl xn HostReg.xnonce (fun v => { s with xnonce := v }) (fun _ => hp)
    (fun _ _ _ => if_neg (by simp [hb])) s.xnonce rest

/-- `wrt` while idle (R89). -/
theorem runSteps_wrt (tag : Vector Byte 16) :
    runSteps 4 { s with script := wrt tag ++ rest } = .next { s with tag := tag, script := rest } :=
  runSteps_writeWords (m := 4) rfl tag HostReg.tag (fun v => { s with tag := v }) (fun _ => hp)
    (fun _ _ _ => if_neg (by simp [hb])) s.tag rest

end

/-- `wait` once DONE = 1 (R89): the read of STATUS. -/
theorem step_wait_done {s : State} (hp : s.PhaseNamed) (hd : s.status.done = true) (rest : List HostMove) :
    step { s with script := .wait :: rest } = .next { s with script := rest, hostData := .word s.status.toWord } :=
  step_of_moveEffect (.inl hp) (.waited { s with script := rest } hd)

/-- A 64-bit length from the two words the host writes (R84). -/
theorem ofNat_append_ofNat (n : Nat) : BitVec.ofNat 32 (n / 2 ^ 32) ++ BitVec.ofNat 32 n = BitVec.ofNat 64 n := by
  apply BitVec.eq_of_toNat_eq
  rw [toNat_append_word, BitVec.toNat_ofNat, BitVec.toNat_ofNat, BitVec.toNat_ofNat]
  omega

/-- The first five writes of a descriptor: SIZES and both lengths (R84, R90). -/
theorem runSteps_lengths {s : State} (hp : s.PhaseNamed) (hb : s.status.busy = false) (v : Word) (a d : Nat)
    (rest : List HostMove) :
    runSteps 5 { s with
        script := wrReg .sizes v :: wrReg .alenLo (BitVec.ofNat 32 a) :: wrReg .alenHi (BitVec.ofNat 32 (a / 2 ^ 32)) ::
          wrReg .dlenLo (BitVec.ofNat 32 d) :: wrReg .dlenHi (BitVec.ofNat 32 (d / 2 ^ 32)) :: rest } =
      .next { s with
        sizes := Sizes.ofWord v, alen := BitVec.ofNat 64 a, dlen := BitVec.ofNat 64 d, script := rest } := by
  obtain ⟨alenLo, alenHi⟩ := writeGives_alen (s := { s with sizes := Sizes.ofWord v }) hp hb
    (BitVec.ofNat 32 a) (BitVec.ofNat 32 (a / 2 ^ 32))
  obtain ⟨dlenLo, dlenHi⟩ := writeGives_dlen (s := { s with sizes := Sizes.ofWord v, alen := BitVec.ofNat 64 a }) hp hb
    (BitVec.ofNat 32 d) (BitVec.ofNat 32 (d / 2 ^ 32))
  rw [ofNat_append_ofNat] at alenHi dlenHi
  calc runSteps 5 _
      _ = runSteps 4 _ := runSteps_succ (writeGives_sizes hp hb v _) 4
      _ = runSteps 3 _ := runSteps_succ (alenLo _) 3
      _ = runSteps 2 _ := runSteps_succ (alenHi _) 2
      _ = runSteps 1 _ := runSteps_succ (dlenLo _) 1
      _ = .next _ := runSteps_one (dlenHi _)

/-- The writes of a descriptor after SIZES and the lengths: both arrays and both buffers (R85, R90). -/
theorem runSteps_arrays {s : State} (hp : s.PhaseNamed) (hb : s.status.busy = false) (key : Vector Byte 32)
    (xn : Vector Byte 24) {aad data : List Byte} (ha : aad.length ≤ s.params.abufCap)
    (hd : data.length ≤ s.params.dbufCap) (rest : List HostMove) :
    runSteps 16 { s with
        script := wrk key ++ (wrn xn ++ (.wrb .abuf 0 aad :: .wrb .dbuf 0 data :: rest)) } =
      .next { s with
        key := key, xnonce := xn, abuf := s.abuf.writeBytes 0 aad, dbuf := s.dbuf.writeBytes 0 data
        script := rest } := by
  have hkey := runSteps_wrk hp hb (wrn xn ++ (.wrb .abuf 0 aad :: .wrb .dbuf 0 data :: rest)) key
  have hxn := runSteps_wrn (s := { s with key := key }) hp hb (.wrb .abuf 0 aad :: .wrb .dbuf 0 data :: rest) xn
  have habuf := step_wrb (s := { s with key := key, xnonce := xn }) hp hb (sp := .abuf) (off := 0) (v := aad)
    (by rwa [Nat.zero_add]) (.wrb .dbuf 0 data :: rest)
  have hdbuf := step_wrb (s := { s with key := key, xnonce := xn, abuf := s.abuf.writeBytes 0 aad }) hp hb (sp := .dbuf)
    (off := 0) (v := data) (by rwa [Nat.zero_add]) rest
  calc runSteps 16 _
      _ = runSteps 8 _ := runSteps_trans hkey 8
      _ = runSteps 2 _ := runSteps_trans hxn 2
      _ = runSteps 1 _ := runSteps_succ habuf 1
      _ = .next _ := runSteps_one hdbuf

/-- The legal SIZES word gives the legal sizes (R6, R84). -/
theorem sizes_ofWord_legalSizes :
    Sizes.ofWord legalSizes = { klen := keySize, nlen := xnonceSize, tlen := tagSize } := by decide

/-- The state the descriptor writes of R90 leave. -/
def described (s : State) (key : Vector Byte 32) (xn : Vector Byte 24) (aad data : List Byte) : State :=
  { s with
    sizes := { klen := keySize, nlen := xnonceSize, tlen := tagSize }, alen := BitVec.ofNat 64 aad.length
    dlen := BitVec.ofNat 64 data.length, key := key, xnonce := xn, abuf := s.abuf.writeBytes 0 aad
    dbuf := s.dbuf.writeBytes 0 data }

/-- The writes both pseudo-instructions make before the start (R90). -/
theorem runSteps_descriptor {s : State} (hp : s.PhaseNamed) (hb : s.status.busy = false) (key : Vector Byte 32)
    (xn : Vector Byte 24) {aad data : List Byte} (ha : aad.length ≤ s.params.abufCap)
    (hd : data.length ≤ s.params.dbufCap) (rest : List HostMove) :
    runSteps 21 { s with script := descriptorScript key xn aad data ++ rest } =
      .next { described s key xn aad data with script := rest } := by
  have hscript : descriptorScript key xn aad data ++ rest =
      wrReg .sizes legalSizes :: wrReg .alenLo (BitVec.ofNat 32 aad.length) ::
      wrReg .alenHi (BitVec.ofNat 32 (aad.length / 2 ^ 32)) :: wrReg .dlenLo (BitVec.ofNat 32 data.length) ::
      wrReg .dlenHi (BitVec.ofNat 32 (data.length / 2 ^ 32)) ::
      (wrk key ++ (wrn xn ++ (.wrb .abuf 0 aad :: .wrb .dbuf 0 data :: rest))) := by
    simp [descriptorScript]
  have hlengths := runSteps_lengths hp hb legalSizes aad.length data.length
    (wrk key ++ (wrn xn ++ (.wrb .abuf 0 aad :: .wrb .dbuf 0 data :: rest)))
  rw [sizes_ofWord_legalSizes] at hlengths
  rw [hscript]
  exact (runSteps_trans hlengths 16).trans (runSteps_arrays (s := { s with
    sizes := { klen := keySize, nlen := xnonceSize, tlen := tagSize }, alen := BitVec.ofNat 64 aad.length
    dlen := BitVec.ofNat 64 data.length }) hp hb key xn ha hd rest)

end Sys2Proof.Machine
end

section
/-! PROOFS. The two pseudo-instructions whole (spec 30_encoding.md R90): descriptor, start, command, `wait`. -/

namespace Sys2Proof.Machine

/-- Writing as many bytes at the same place again leaves the later ones. -/
theorem Memory.writeBytes_overwrite {m : Memory} (h : m.wf) (off : Nat) {xs ys : List Byte}
    (hl : xs.length = ys.length) : (m.writeBytes off xs).writeBytes off ys = m.writeBytes off ys := by
  have hx := Memory.writeBytes_wf xs h off
  refine Memory.ext_read (Memory.writeBytes_wf ys hx off) (Memory.writeBytes_wf ys h off) fun a => ?_
  by_cases hin : off ≤ a ∧ a < off + ys.length
  · obtain ⟨t, rfl⟩ := Nat.exists_eq_add_of_le hin.1
    have ht : t < ys.length := by omega
    rw [Memory.read_writeBytes_inside ys hx off ht, Memory.read_writeBytes_inside ys h off ht]
  · rw [Memory.read_writeBytes_outside ys _ (by omega), Memory.read_writeBytes_outside xs _ (by omega),
      Memory.read_writeBytes_outside ys _ (by omega)]

/-- In a ready state both buffers are in canonical form (R60, R61). -/
theorem State.Ready.buffers_wf {s : State} (h : s.Ready) : s.abuf.wf ∧ s.dbuf.wf := by
  obtain ⟨ha, hd, -, -⟩ := h.inv.buffers
  exact ⟨ha, hd⟩

/-- The state right after the start of a pseudo-instruction, its `wait` still to come (R90, R190). -/
def commanded (s : State) (key : Vector Byte 32) (xn : Vector Byte 24) (aad data : List Byte) (tag : Vector Byte 16)
    (opc : Byte) : State :=
  { described s key xn aad data with
    tag := tag, opc := opc, status := { busy := true, done := false, err := 0, errInfo := 0 }
    phase := Phase.check, script := [.wait] }

section
variable {s : State} (hr : s.Ready) (key : Vector Byte 32) (xn : Vector Byte 24) {aad data : List Byte}
  (ha : aad.length < 2 ^ 64) (hacap : aad.length ≤ s.params.abufCap) (hdcap : data.length ≤ s.params.dbufCap)
  (hmax : data.length ≤ ctrMaxDlen) (tag : Vector Byte 16) (opc : Byte)

include ha in
theorem alen_commanded : (commanded s key xn aad data tag opc).alen.toNat = aad.length :=
  (BitVec.toNat_ofNat aad.length 64).trans (Nat.mod_eq_of_lt ha)

include hmax in
theorem dlen_commanded : (commanded s key xn aad data tag opc).dlen.toNat = data.length := by
  rw [ctrMaxDlen] at hmax
  exact (BitVec.toNat_ofNat data.length 64).trans (Nat.mod_eq_of_lt (by omega))

include ha hmax in
/-- The steps R203 counts for the command, in terms of the operands. -/
theorem commandSteps_commanded : commandSteps (commanded s key xn aad data tag opc) =
    51 + 23 * ((data.length + 63) / 64) + (aad.length + 15) / 16 + (data.length + 15) / 16 := by
  rw [commandSteps, alen_commanded key xn ha, dlen_commanded key xn hmax]
  rfl

include ha hmax in
/-- The steps R203 counts for a DECRYPT whose tag differs, in terms of the operands. -/
theorem failedSteps_commanded : failedSteps (commanded s key xn aad data tag opc) =
    52 + (aad.length + 15) / 16 + (data.length + 15) / 16 := by
  rw [failedSteps, alen_commanded key xn ha, dlen_commanded key xn hmax]
  rfl

include hr ha in
/-- The associated data of the command is the operand (R90). -/
theorem aadBytes_commanded : (commanded s key xn aad data tag opc).aadBytes = aad := by
  rw [State.aadBytes, alen_commanded key xn ha]
  exact Memory.readBytes_writeBytes_same hr.buffers_wf.1 0 aad

include hr hmax in
/-- The data of the command is the operand (R90). -/
theorem dataBytes_commanded : (commanded s key xn aad data tag opc).dataBytes = data := by
  rw [State.dataBytes, dlen_commanded key xn hmax]
  exact Memory.readBytes_writeBytes_same hr.buffers_wf.2 0 data

include hr ha hacap hdcap hmax in
/-- A pseudo-instruction starts a command with a legal descriptor (R90, R191). -/
theorem started_commanded (ho : opc = opcEncrypt ∨ opc = opcDecrypt) :
    (commanded s key xn aad data tag opc).Started where
  acts := ⟨rfl, .inr ⟨[], rfl, rfl⟩⟩
  phase := rfl
  status := rfl
  erased := hr.idle_erased.2.2
  dbuf := Memory.writeBytes_wf data hr.buffers_wf.2 0
  legal := by
    have hd := dlen_commanded (s := s) (aad := aad) key xn hmax tag opc
    rw [contractFailure_none_iff]
    exact ⟨ho, rfl, rfl, rfl, (alen_commanded key xn ha tag opc).trans_le hacap, hd.trans_le hdcap, hd.trans_le hmax⟩

include hr ha hmax in
/-- The end of ENCRYPT in terms of the operands (R90, R192). -/
theorem encryptEnd_commanded :
    encryptEnd (commanded s key xn aad data tag opc) = { endOfCommand 0 0 (commanded s key xn aad data tag opc) with
      dbuf := s.dbuf.writeBytes 0 (xchacha20Xor key xn data)
      tag := authTag key xn aad (xchacha20Xor key xn data) } := by
  have hdbuf := Memory.writeBytes_overwrite hr.buffers_wf.2 0 (xs := data) (ys := xchacha20Xor key xn data) (by simp)
  rw [encryptEnd, dataBytes_commanded hr key xn hmax, aadBytes_commanded hr key xn ha, ← hdbuf]
  rfl

include hr ha hmax in
/-- The end of DECRYPT with the computed tag, in terms of the operands (R90, R193). -/
theorem decryptEnd_commanded_equal (ht : tag = authTag key xn aad data) :
    decryptEnd (commanded s key xn aad data tag opc) = { endOfCommand 0 0 (commanded s key xn aad data tag opc) with
      dbuf := s.dbuf.writeBytes 0 (xchacha20Xor key xn data) } := by
  have hdbuf := Memory.writeBytes_overwrite hr.buffers_wf.2 0 (xs := data) (ys := xchacha20Xor key xn data) (by simp)
  rw [decryptEnd, dataBytes_commanded hr key xn hmax, aadBytes_commanded hr key xn ha, ← hdbuf]
  exact if_pos ((tagDiff_eq_zero_iff _ _).2 ht.symm)

include hr ha hmax in
/-- The end of DECRYPT with another tag, in terms of the operands (R90, R193, R233). -/
theorem decryptEnd_commanded_differ (ht : tag ≠ authTag key xn aad data) :
    decryptEnd (commanded s key xn aad data tag opc) =
      { endOfCommand errAuthentication 0 (commanded s key xn aad data tag opc) with
        dbuf := s.dbuf.writeBytes 0 (List.replicate data.length 0) } := by
  have hdbuf := Memory.writeBytes_overwrite hr.buffers_wf.2 0 (xs := data) (ys := List.replicate data.length 0)
    (by simp)
  rw [decryptEnd, dataBytes_commanded hr key xn hmax, aadBytes_commanded hr key xn ha, ← hdbuf]
  exact if_neg fun hd => ht ((tagDiff_eq_zero_iff _ _).1 hd).symm

include hr hacap hdcap in
/-- The descriptor writes and the start of ENCRYPT (R90). -/
theorem runSteps_startEncrypt :
    runSteps 22 { s with script := encryptScript key xn aad data } =
      .next (commanded s key xn aad data s.tag opcEncrypt) := by
  obtain ⟨hp, -, -⟩ := hr.idle_erased
  have hstart := step_wr_cmd (s := described s key xn aad data) hp 1 [.wait]
  rw [startCommand_idle 1 (s := { described s key xn aad data with script := [.wait] }) hr.idle] at hstart
  exact runSteps_snoc (runSteps_descriptor hp hr.idle key xn hacap hdcap [startEncrypt, .wait]) hstart

include hr hacap hdcap in
/-- The descriptor and TAG writes and the start of DECRYPT (R90). -/
theorem runSteps_startDecrypt :
    runSteps 26 { s with script := decryptScript key xn aad data tag } =
      .next (commanded s key xn aad data tag opcDecrypt) := by
  obtain ⟨hp, -, -⟩ := hr.idle_erased
  have hscript : decryptScript key xn aad data tag =
      descriptorScript key xn aad data ++ (wrt tag ++ [startDecrypt, .wait]) := List.append_assoc ..
  have hdesc := runSteps_descriptor hp hr.idle key xn hacap hdcap (wrt tag ++ [startDecrypt, .wait])
  have htag := runSteps_wrt (s := described s key xn aad data) hp hr.idle [startDecrypt, .wait] tag
  have hstart := step_wr_cmd (s := { described s key xn aad data with tag := tag }) hp 2 [.wait]
  rw [startCommand_idle 2 (s := { described s key xn aad data with tag := tag, script := [.wait] }) hr.idle] at hstart
  rw [hscript]
  exact runSteps_snoc ((runSteps_trans hdesc 4).trans htag) hstart

end

/-- STATUS as the host reads it after a command without an error, and after one whose tag differs (R28, R90). -/
theorem toWord_done :
    Status.toWord { busy := false, done := true, err := 0, errInfo := 0 } = 0x00000002 ∧
      Status.toWord { busy := false, done := true, err := errAuthentication, errInfo := 0 } = 0x00000006 := by decide

/-- A run that ends a command before its `wait` is followed by the read of STATUS (R89). -/
theorem runSteps_wait {j : Nat} {s t : State} {v : Word} (h : runSteps j s = .next t) (ht : t.script = [.wait])
    (hp : t.PhaseNamed) (hd : t.status.done = true) (hv : t.status.toWord = v) :
    runSteps (j + 1) s = .next { t with script := [], hostData := .word v } := by
  have hwait := step_wait_done hp hd []
  rw [← ht, hv] at hwait
  exact runSteps_snoc h hwait

/-- Settles O60: the array writes by `runSteps_writeWords`, `wait` by `step_wait_done`, and each pseudo-instruction as
its descriptor and start, the run of its command (R192, R193), and the last `wait`. -/
theorem hostScripts : Obligations.HostScripts := by
  refine ⟨fun s rest hp hb => ⟨runSteps_wrk hp hb rest, runSteps_wrn hp hb rest, runSteps_wrt hp hb rest⟩,
    fun s rest hp hd => ⟨_, step_wait_done hp hd rest, readsAs_of_regRead hp .status rfl⟩,
    fun s key xn aad data hr ha hacap hdcap hmax => ?_⟩
  obtain ⟨hp, hi, hz⟩ := hr.idle_erased
  have started (tag opc) := started_commanded hr key xn ha hacap hdcap hmax tag opc
  intro otk macs written out
  refine ⟨?_, fun tag => ⟨fun ht => ?_, fun ht => ?_⟩⟩
  · have hstart := runSteps_startEncrypt hr key xn hacap hdcap
    have hrun := (started s.tag opcEncrypt (.inl rfl)).runSteps_encrypt rfl
    have hcount : 74 + 23 * ((data.length + 63) / 64) + macs =
        22 + (51 + 23 * ((data.length + 63) / 64) + (aad.length + 15) / 16 + (data.length + 15) / 16) + 1 := by omega
    rw [commandSteps_commanded key xn ha hmax, encryptEnd_commanded hr key xn ha hmax, endOfCommand, ← hz, ← hi] at hrun
    rw [hcount]
    exact runSteps_wait ((runSteps_trans hstart _).trans hrun) rfl hp rfl toWord_done.1
  · have hstart := runSteps_startDecrypt hr key xn hacap hdcap tag
    have hend := decryptEnd_commanded_equal hr key xn ha hmax tag opcDecrypt ht
    have hrun := (started tag opcDecrypt (.inr rfl)).runSteps_decrypt rfl
      (by rw [aadBytes_commanded hr key xn ha, dataBytes_commanded hr key xn hmax]; exact ht)
    have hcount : 78 + 23 * ((data.length + 63) / 64) + macs =
        26 + (51 + 23 * ((data.length + 63) / 64) + (aad.length + 15) / 16 + (data.length + 15) / 16) + 1 := by omega
    rw [commandSteps_commanded key xn ha hmax, hend, endOfCommand, ← hz, ← hi] at hrun
    rw [hcount]
    exact runSteps_wait ((runSteps_trans hstart _).trans hrun) rfl hp rfl toWord_done.1
  · have hstart := runSteps_startDecrypt hr key xn hacap hdcap tag
    have hend := decryptEnd_commanded_differ hr key xn ha hmax tag opcDecrypt ht
    have hrun := (started tag opcDecrypt (.inr rfl)).runSteps_decrypt_failed rfl
      (by rw [aadBytes_commanded hr key xn ha, dataBytes_commanded hr key xn hmax]; exact ht)
    have hcount : 79 + macs = 26 + (52 + (aad.length + 15) / 16 + (data.length + 15) / 16) + 1 := by omega
    rw [failedSteps_commanded key xn ha hmax, hend, endOfCommand, ← hz, ← hi] at hrun
    rw [hcount]
    exact runSteps_wait ((runSteps_trans hstart _).trans hrun) rfl hp rfl toWord_done.2

end Sys2Proof.Machine
end

section
/-! PROOFS. The word primitives and QR (spec 40_word_primitives.md R100 to R103), a double round, the permutation and
ROUNDSTEP (R106, R107). -/

namespace Sys2Proof.Machine

/-- Settles O2: ADD32 and XOR32 are the addition and the xor of `BitVec 32`. -/
theorem wordAddAndXor : Obligations.WordAddAndXor :=
  ⟨BitVec.toNat_add, by decide, BitVec.add_zero, BitVec.add_comm, BitVec.add_assoc, by decide,
    fun _ _ _ _ => BitVec.getLsbD_xor, fun _ => BitVec.xor_self, fun _ => BitVec.xor_zero, by decide⟩

/-- ROTL32 depends on the amount modulo 32 only (R102). -/
theorem rotl32_mod (x : Word) (n : Nat) : rotl32 x n = rotl32 x (n % 32) :=
  BitVec.rotateLeft_mod_eq_rotateLeft.symm

/-- The bits that stay, moved up, and the bits shifted out, come back below them (R102). -/
theorem toNat_rotl32 (x : Word) {n : Nat} (hn : n < 32) :
    (rotl32 x n).toNat = x.toNat * 2 ^ n % 2 ^ 32 + x.toNat / 2 ^ (32 - n) := by
  have hsplit : 2 ^ 32 = 2 ^ n * 2 ^ (32 - n) := by rw [← Nat.pow_add, Nat.add_sub_cancel' hn.le]
  have hkept : x.toNat * 2 ^ n % 2 ^ 32 = 2 ^ n * (x.toNat % 2 ^ (32 - n)) := by
    rw [hsplit, Nat.mul_comm, Nat.mul_mod_mul_left]
  have hout : x.toNat / 2 ^ (32 - n) < 2 ^ n := by
    rw [Nat.div_lt_iff_lt_mul (by positivity), ← hsplit]
    exact x.isLt
  rw [rotl32, BitVec.toNat_rotateLeft, Nat.mod_eq_of_lt hn, Nat.shiftLeft_eq, Nat.shiftRight_eq_div_pow, hkept,
    Nat.two_pow_add_eq_or_of_lt hout]

/-- Bit i of the word becomes bit (i + n) mod 32 (R102). -/
theorem getLsbD_rotl32 (x : Word) {n i : Nat} (hn : n < 32) (hi : i < 32) :
    (rotl32 x n).getLsbD ((i + n) % 32) = x.getLsbD i := by
  rw [rotl32, BitVec.getLsbD_rotateLeft, Nat.mod_eq_of_lt hn]
  by_cases hwrap : i + n < 32
  · have hstay : ¬ i + n < n := by omega
    simp [Nat.mod_eq_of_lt hwrap, hstay, hwrap]
  · have hmod : (i + n) % 32 = i + n - 32 := by omega
    have hback : 32 - n + (i + n - 32) = i := by omega
    have hlow : i + n - 32 < n := by omega
    simp [hmod, hlow, hback]

/-- The four amounts of the core are less than the width (R102). -/
theorem lt_of_mem_amounts : ∀ n ∈ [16, 12, 8, 7], n < 32 := by decide

/-- Settles O3: the value by `toNat_rotl32`, the bits by `getLsbD_rotl32`. -/
theorem rotateLeft : Obligations.RotateLeft :=
  ⟨fun x n hn => ⟨toNat_rotl32 x (lt_of_mem_amounts n hn), fun _ hi => getLsbD_rotl32 x (lt_of_mem_amounts n hn) hi⟩,
    rotl32_mod, by decide⟩

/-- Settles O4: `quarterRound` is written as the twelve operations. -/
theorem quarterRoundOrder : Obligations.QuarterRoundOrder := ⟨fun _ _ _ _ => rfl, by decide, by decide⟩

/-- Settles O6: the definitions unfolded, the row ROUNDSTEP through `roundAt`. -/
theorem doubleRoundAndStep : Obligations.DoubleRoundAndStep := ⟨fun _ => rfl, fun _ => rfl, fun _ => rfl⟩

end Sys2Proof.Machine
end

section
/-! PROOFS. Rounds over lanes (spec 40_word_primitives.md R104, R105, R109): a lane writes its own four words from its
own four words, so lanes without a common word can be taken in any order. -/

namespace Sys2Proof.Machine

/-- The indices of the words of a lane. -/
def laneIndices (g : Lane) : List (Fin 16) := [g.1, g.2.1, g.2.2.1, g.2.2.2]

/-- The words of a lane, in its order. -/
def laneWords (w : CipherState) (g : Lane) : Word × Word × Word × Word :=
  (w[g.1], w[g.2.1], w[g.2.2.1], w[g.2.2.2])

/-- QR of the words of a lane (R103). -/
def laneRound (w : CipherState) (g : Lane) : Word × Word × Word × Word :=
  quarterRound (laneWords w g).1 (laneWords w g).2.1 (laneWords w g).2.2.1 (laneWords w g).2.2.2

/-- Word by word what a lane leaves: the last of its writes to that word. -/
theorem getElem_applyLane (w : CipherState) (g : Lane) (m : Fin 16) :
    (applyLane w g)[m] = if m = g.2.2.2 then (laneRound w g).2.2.2 else if m = g.2.2.1 then (laneRound w g).2.2.1 else
      if m = g.2.1 then (laneRound w g).2.1 else if m = g.1 then (laneRound w g).1 else w[m] := by
  have hset : applyLane w g = (((w.set g.1 (laneRound w g).1).set g.2.1 (laneRound w g).2.1).set
    g.2.2.1 (laneRound w g).2.2.1).set g.2.2.2 (laneRound w g).2.2.2 := rfl
  simp only [hset, Fin.getElem_fin, Vector.getElem_set, Fin.val_inj, eq_comm]

/-- A lane leaves the words outside it as they are. -/
theorem getElem_applyLane_of_notMem {g : Lane} {m : Fin 16} (hm : m ∉ laneIndices g) (w : CipherState) :
    (applyLane w g)[m] = w[m] := by
  simp only [laneIndices, List.mem_cons, List.not_mem_nil, or_false, not_or] at hm
  obtain ⟨h1, h2, h3, h4⟩ := hm
  rw [getElem_applyLane, if_neg h4, if_neg h3, if_neg h2, if_neg h1]

theorem laneWords_congr {g : Lane} {w v : CipherState} (h : ∀ m ∈ laneIndices g, w[m] = v[m]) :
    laneWords w g = laneWords v g := by
  simp only [laneIndices, List.forall_mem_cons] at h
  obtain ⟨h1, h2, h3, h4, -⟩ := h
  rw [laneWords, h1, h2, h3, h4, laneWords]

/-- QR of a lane depends on the lane's words only. -/
theorem laneRound_congr {g : Lane} {w v : CipherState} (h : ∀ m ∈ laneIndices g, w[m] = v[m]) :
    laneRound w g = laneRound v g := by
  rw [laneRound, laneWords_congr h, laneRound]

/-- What a lane writes depends on the lane's words only. -/
theorem getElem_applyLane_congr {g : Lane} {m : Fin 16} (hm : m ∈ laneIndices g) {w v : CipherState}
    (h : ∀ m ∈ laneIndices g, w[m] = v[m]) : (applyLane w g)[m] = (applyLane v g)[m] := by
  rw [getElem_applyLane, getElem_applyLane, laneRound_congr h, h m hm]

/-- A lane of four different words leaves in them QR of them. -/
theorem laneWords_applyLane {g : Lane} (hg : (laneIndices g).Nodup) (w : CipherState) :
    laneWords (applyLane w g) g = laneRound w g := by
  simp only [laneIndices, List.nodup_cons, List.mem_cons, List.not_mem_nil, or_false, not_or] at hg
  obtain ⟨⟨h12, h13, h14⟩, ⟨h23, h24⟩, h34, -⟩ := hg
  simp only [laneWords, getElem_applyLane, if_neg h12, if_neg h13, if_neg h14, if_neg h23, if_neg h24, if_neg h34,
    if_true]

/-- After lanes g and h without a common word, a word of g is what g alone leaves in it. -/
theorem getElem_applyLane_applyLane {g h : Lane} (hd : (laneIndices g).Disjoint (laneIndices h)) {m : Fin 16}
    (hm : m ∈ laneIndices g) (w : CipherState) :
    (applyLane (applyLane w h) g)[m] = (applyLane (applyLane w g) h)[m] :=
  (getElem_applyLane_congr hm fun _ hk => getElem_applyLane_of_notMem (hd hk) w).trans
    (getElem_applyLane_of_notMem (hd hm) _).symm

/-- Two lanes without a common word commute (R109). -/
theorem applyLane_comm {g h : Lane} (hd : (laneIndices g).Disjoint (laneIndices h)) (w : CipherState) :
    applyLane (applyLane w g) h = applyLane (applyLane w h) g := by
  refine Vector.ext fun i hi => ?_
  by_cases hg : ⟨i, hi⟩ ∈ laneIndices g
  · exact (getElem_applyLane_applyLane hd hg w).symm
  · by_cases hh : ⟨i, hi⟩ ∈ laneIndices h
    · exact getElem_applyLane_applyLane hd.symm hh w
    · have hout (a b : Lane) (ha : ⟨i, hi⟩ ∉ laneIndices a) (hb : ⟨i, hi⟩ ∉ laneIndices b) :
          (applyLane (applyLane w a) b)[i] = w[i] :=
        (getElem_applyLane_of_notMem hb _).trans (getElem_applyLane_of_notMem ha w)
      exact (hout g h hg hh).trans (hout h g hh hg).symm

/-- A round leaves the words outside its lanes as they are. -/
theorem getElem_roundOn_of_notMem {lanes : List Lane} {m : Fin 16} (hm : m ∉ lanes.flatMap laneIndices)
    (w : CipherState) : (roundOn lanes w)[m] = w[m] := by
  induction lanes generalizing w with
  | nil => rfl
  | cons h lanes ih =>
    rw [List.flatMap_cons, List.mem_append, not_or] at hm
    obtain ⟨hh, hrest⟩ := hm
    exact (ih hrest (applyLane w h)).trans (getElem_applyLane_of_notMem hh w)

/-- Where no word stands in two places of a round's lanes, the round is QR on each lane of the state before it (R104,
R105). -/
theorem laneWords_roundOn {lanes : List Lane} (hl : (lanes.flatMap laneIndices).Nodup) {g : Lane} (hg : g ∈ lanes)
    (w : CipherState) : laneWords (roundOn lanes w) g = laneRound w g := by
  induction lanes generalizing w with
  | nil => cases hg
  | cons h lanes ih =>
    obtain ⟨hh, hrest, hd⟩ := List.nodup_append'.1 hl
    rcases List.mem_cons.1 hg with rfl | hmem
    · have hkeep (m) (hm : m ∈ laneIndices g) : (roundOn (g :: lanes) w)[m] = (applyLane w g)[m] :=
        getElem_roundOn_of_notMem (hd hm) _
      exact (laneWords_congr hkeep).trans (laneWords_applyLane hh w)
    · refine (ih hrest hmem (applyLane w h)).trans (laneRound_congr fun m hm => getElem_applyLane_of_notMem ?_ w)
      exact fun hmh => hd hmh (List.mem_flatMap.2 ⟨g, hmem, hm⟩)

/-- Where no word stands in two places of a round's lanes, their order does not matter (R109). -/
theorem roundOn_perm {lanes lanes' : List Lane} (hp : lanes.Perm lanes') (hl : (lanes'.flatMap laneIndices).Nodup)
    (w : CipherState) : roundOn lanes w = roundOn lanes' w := by
  refine (hp.symm.foldl_eq' (fun g hg h hh v => ?_) w).symm
  by_cases he : g = h
  · rw [he]
  · obtain ⟨-, hdisjoint⟩ := List.nodup_flatMap.1 hl
    have : Std.Symm (Function.onFun List.Disjoint laneIndices) := ⟨fun _ _ hd => hd.symm⟩
    exact applyLane_comm (hdisjoint.forall hg hh he) v

/-- The four columns are the sixteen words, each once (R104). -/
theorem nodup_columnLanes : (columnLanes.flatMap laneIndices).Nodup := by decide

/-- The four diagonals are the sixteen words, each once (R105). -/
theorem nodup_diagonalLanes : (diagonalLanes.flatMap laneIndices).Nodup := by decide

/-- Settles O5: the lanes of each round share no word, so each is QR of its own words (`laneWords_roundOn`) and their
order does not matter (`roundOn_perm`). -/
theorem roundGroups : Obligations.RoundGroups :=
  ⟨fun w _ _ _ _ hg => laneWords_roundOn nodup_columnLanes hg w,
    fun w _ _ _ _ hg => laneWords_roundOn nodup_diagonalLanes hg w,
    fun w _ hp => roundOn_perm hp nodup_columnLanes w,
    fun w _ hp => roundOn_perm hp nodup_diagonalLanes w⟩

end Sys2Proof.Machine
end

section
/-! PROOFS. The ChaCha20 block (spec 41_chacha20_block.md R120 to R122, R124, R125): the initial state, the bytes of a
block, and the operations BLK_LOAD and BLK_OUT. -/

namespace Sys2Proof.Machine

/-- Words 0 to 3 are the constants and words 4 to 11 the key, whatever the last four words are (R121, R140). -/
theorem keyedState_words (key : Vector Byte 32) (w12 w13 w14 w15 : Word) :
    let s0 := keyedState key w12 w13 w14 w15
    s0[0] = 0x61707865 ∧ s0[1] = 0x3320646e ∧ s0[2] = 0x79622d32 ∧ s0[3] = 0x6b206574 ∧
    ∀ i : Fin 8, s0[4 + i.val] = wordAt key (4 * i.val) := by
  refine ⟨rfl, rfl, rfl, rfl, fun i => ?_⟩
  fin_cases i <;> rfl

/-- Words 13 to 15 of the initial state are the nonce (R121). -/
theorem initState_nonce (key : Vector Byte 32) (ctr : Word) (nonce : Vector Byte 12) (i : Fin 3) :
    (initState key ctr nonce)[13 + i.val] = wordAt nonce (4 * i.val) := by
  fin_cases i <;> rfl

/-- The bytes of an added-back state: word by word modulo 2^32, each word little-endian (R120, R124). -/
theorem getElem_serialize16_addBack (w s0 : CipherState) (i : Fin 16) (j : Fin 4) :
    (serialize16 (addBack w s0))[4 * i.val + j.val] = wordByte (add32 w[i] s0[i]) j.val := by
  have hdiv : (4 * i.val + j.val) / 4 = i.val := by omega
  have hmod : (4 * i.val + j.val) % 4 = j.val := by omega
  simp [hdiv, hmod, addBack]

/-- Settles O7: the words of the initial state, and the bytes by `getElem_serialize16_addBack`. -/
theorem chaCha20BlockFunction : Obligations.ChaCha20BlockFunction := by
  intro key ctr nonce
  obtain ⟨h0, h1, h2, h3, hkey⟩ :=
    keyedState_words key ctr (wordAt nonce 0) (wordAt nonce 4) (wordAt nonce 8)
  exact ⟨h0, h1, h2, h3, hkey, rfl, initState_nonce key ctr nonce, getElem_serialize16_addBack _ _⟩

/-- Settles O17: BLK_LOAD is the record R122 writes. -/
theorem blkLoad : Obligations.BlkLoad := fun _ => rfl

/-- Settles O19: BLK_OUT is the record R124 writes, and the bytes of KS by `getElem_serialize16_addBack`. -/
theorem blkOut : Obligations.BlkOut := fun s =>
  ⟨_, rfl, getElem_serialize16_addBack s.scr.w s.scr.s0, rfl⟩

/-- Settles O54: the load, the twenty rounds and the output of `runSteps_block`. -/
theorem blockAgreement : Obligations.BlockAgreement := fun _ hb hs hp => runSteps_block ⟨hb, .inl hs⟩ hp

end Sys2Proof.Machine
end

section
/-! PROOFS. The ROUND phases as instructions (spec 41_chacha20_block.md R123, 42_hchacha20.md R142,
40_word_primitives.md R107), and what R24 says of RND after the other phases. -/

namespace Sys2Proof.Machine

/-- A round phase as one record: W and RND advance, and PHASE goes on exactly when RND reaches 20 (R123, R142). -/
theorem roundPhase_record (after : BitVec 5) (s : State) :
    roundPhase after s =
      { s with scr := s.scr.roundStep, phase := if s.scr.rnd + 1 = 20 then after else s.phase } := by
  unfold roundPhase
  split <;> rfl

/-- The first rounds from RND = 0: W and RND advance and PHASE stays (R107). -/
theorem roundPhase_iterate {s : State} (hr : s.scr.rnd = 0) (after : BitVec 5) {n : Nat} (hn : n < 20) :
    (roundPhase after)^[n] s =
      { s with scr := { s.scr with w := roundsFrom s.scr.w n, rnd := BitVec.ofNat 5 n } } := by
  induction n with
  | zero =>
    have h0 : BitVec.ofNat 5 0 = s.scr.rnd := hr.symm
    rw [h0]
    rfl
  | succ n ih =>
    rw [Function.iterate_succ_apply', ih (by omega), roundPhase_of_lt (by omega) rfl]
    rfl

/-- Twenty rounds from RND = 0: the permutation, RND = 20 and the next phase (R107, R123, R142). -/
theorem roundPhase_iterate_twenty {s : State} (hr : s.scr.rnd = 0) (after : BitVec 5) :
    (roundPhase after)^[20] s =
      { s with scr := { s.scr with w := perm20 s.scr.w, rnd := 20 }, phase := after } := by
  rw [Function.iterate_succ_apply', roundPhase_iterate hr after (by decide), ← roundsFrom_twenty]
  rfl

/-- An instruction that always completes, executed n times, is its function iterated. -/
theorem runInstrs_replicate {i : Instr} {f : State → State} (hx : ∀ s, exec i s = .next (f s)) (n : Nat) (s : State) :
    runInstrs (List.replicate n i) s = .next (f^[n] s) := by
  induction n generalizing s with
  | zero => rfl
  | succ n ih =>
    rw [List.replicate_succ, runInstrs, hx]
    exact ih (f s)

/-- Both ROUND instructions are the round phase of their successor (R123, R142). -/
theorem exec_round {i : Instr} {after : BitVec 5}
    (h : (i, after) ∈ [(Instr.blkRound, Phase.blkOut), (Instr.hcRound, Phase.hcOut)]) (s : State) :
    exec i s = .next (roundPhase after s) := by
  rcases List.mem_pair.1 h with h | h <;> cases h <;> rfl

/-- What a step of the core does to RND (R24): outside the ROUND phases it clears it, or keeps it in a phase that does
not work on the cipher registers. -/
theorem PhaseEffect.rnd_cases {s t : State} (h : PhaseEffect s t) :
    s.inPhase [Phase.hcRound, Phase.blkRound] ∨ t.scr.rnd = 0 ∨
      (¬ s.inPhase cipherPhases ∧ t.scr.rnd = s.scr.rnd) := by
  have outside {p : BitVec 5} (hp : s.phase = p) (hn : p ∉ cipherPhases) : ¬ s.inPhase cipherPhases := by
    rwa [State.inPhase, hp]
  cases h
  case hcRound h | blkRound h => exact .inl (by simp [h])
  case hcLoad | hcOut | blkLoad | blkOut | wipe => exact .inr (.inl rfl)
  case xor h =>
    obtain ⟨c, p, he, -⟩ := xorNext_cases (xorBody s)
    rw [he]
    exact .inr (.inr ⟨outside h (by decide), rfl⟩)
  all_goals exact .inr (.inr ⟨outside ‹s.phase = _› (by decide), rfl⟩)

/-- From a state of the invariant a step of the core outside the ROUND phases leaves RND = 0 (R24). -/
theorem State.Inv.rnd_zero_of_step {s t : State} (h : s.Inv) (hs : s.script = [])
    (hr : ¬ s.inPhase [Phase.hcRound, Phase.blkRound]) (ht : step s = .next t) : t.scr.rnd = 0 := by
  obtain ⟨-, -, -, -, hzero, -⟩ := h.cipher
  obtain ⟨-, -, hbusy⟩ := h.phaseCode
  rw [step_nil hs] at ht
  rcases coreTurn_cases ht with ⟨hb, rfl⟩ | ⟨-, i, hd, hx⟩
  · have hidle : t.phase = Phase.idle := by
      by_contra hp
      simp [h.phaseCode.2.2 hp] at hb
    rw [h.erased hidle]
    rfl
  · rcases (exec_phase_cases hd hx).rnd_cases with hc | h0 | ⟨hout, hkeep⟩
    · exact absurd hc hr
    · exact h0
    · exact hkeep.trans (hzero hout)

/-- Settles O18: the record of a round phase, its iterations, and `State.Inv.rnd_zero_of_step`. -/
theorem roundPhases : Obligations.RoundPhases := by
  refine ⟨fun i after hi => ⟨fun s => ?_, fun s hr => ?_, fun s k hr hk => ?_⟩, fun s t h hs hh hb => ?_⟩
  · rw [exec_round hi, roundPhase_record]
    rfl
  · rw [runInstrs_replicate (exec_round hi), roundPhase_iterate_twenty hr]
  · refine ⟨_, runInstrs_replicate (exec_round hi) k s, ?_⟩
    rw [roundPhase_iterate hr after hk]
    exact ⟨rfl, Nat.mod_eq_of_lt (by omega)⟩
  · exact h.rnd_zero_of_step hs (by simp [State.inPhase, hh, hb])

end Sys2Proof.Machine
end

section
/-! PROOFS. HChaCha20 (spec 42_hchacha20.md R140, R141, R143, R144): the loaded state, the bytes of the sub-key and of
the ChaCha20 nonce, and the operations HC_LOAD and HC_OUT. -/

namespace Sys2Proof.Machine

/-- Words 12 to 15 of the loaded state are the words of the 16-byte input, ascending (R140, D9). -/
theorem hInitState_prefix (key : Vector Byte 32) (pre : Vector Byte 16) (i : Fin 4) :
    (hInitState key pre)[12 + i.val] = wordAt pre (4 * i.val) := by
  fin_cases i <;> rfl

/-- A word inside the first sixteen bytes of XNONCE is read from the prefix as from the whole (R141, R150). -/
theorem wordAt_noncePrefix (xn : Vector Byte 24) (k : Nat) (h : k + 3 < 16) :
    wordAt (noncePrefix xn) k = wordAt xn k := by
  simp [wordAt, noncePrefix]

/-- The bytes of a sub-key: words 0 to 3, then words 12 to 15, each little-endian (R140, R143). -/
theorem getElem_subkeyOf (w : CipherState) (i j : Fin 4) :
    (subkeyOf w)[4 * i.val + j.val] = wordByte w[i.val] j.val ∧
    (subkeyOf w)[16 + 4 * i.val + j.val] = wordByte w[12 + i.val] j.val := by
  have hmod : (4 * i.val + j.val) % 4 = j.val ∧ (16 + 4 * i.val + j.val) % 4 = j.val := by omega
  have hdiv : (4 * i.val + j.val) / 4 = i.val ∧ (16 + 4 * i.val + j.val) / 4 = 4 + i.val := by omega
  simp only [subkeyOf, getElem_serialize8, hmod, hdiv]
  fin_cases i <;> exact ⟨rfl, rfl⟩

/-- The ChaCha20 nonce begins with four zero bytes (R143, R151). -/
theorem chachaNonce_zeros (xn : Vector Byte 24) (i : Fin 4) : (chachaNonce xn)[i.val] = 0 := by
  fin_cases i <;> rfl

/-- After its zero bytes the ChaCha20 nonce is bytes 16 to 23 of XNONCE (R143, R151). -/
theorem chachaNonce_suffix (xn : Vector Byte 24) (i : Fin 8) : (chachaNonce xn)[4 + i.val] = xn[16 + i.val] := by
  fin_cases i <;> rfl

/-- Settles O55: the load, the twenty rounds and the output of `runSteps_hchacha`. -/
theorem hChaChaAgreement : Obligations.HChaChaAgreement := fun _ hb hs hp => runSteps_hchacha ⟨hb, .inl hs⟩ hp

/-- Settles O8: the words of the loaded state, and the bytes of the permuted one by `getElem_subkeyOf`. -/
theorem hChaCha20Function : Obligations.HChaCha20Function := by
  intro key pre
  obtain ⟨h0, h1, h2, h3, hkey⟩ :=
    keyedState_words key (wordAt pre 0) (wordAt pre 4) (wordAt pre 8) (wordAt pre 12)
  exact ⟨h0, h1, h2, h3, hkey, hInitState_prefix key pre, getElem_subkeyOf _⟩

/-- Settles O20: HC_LOAD is the record R141 writes, and its W the loaded state of the prefix of XNONCE. -/
theorem hcLoad : Obligations.HcLoad := by
  intro s
  obtain ⟨h0, h1, h2, h3, hkey, hpre, -⟩ := hChaCha20Function s.key (noncePrefix s.xnonce)
  exact ⟨_, rfl, h0, h1, h2, h3, hkey, fun i => (hpre i).trans (wordAt_noncePrefix _ _ (by omega)), rfl⟩

/-- Settles O21: HC_OUT is the record R143 writes, and the bytes it puts in SUBKEY and CNONCE by their lemmas. -/
theorem hcOut : Obligations.HcOut := fun s =>
  ⟨_, rfl, getElem_subkeyOf s.scr.w, chachaNonce_zeros s.xnonce, chachaNonce_suffix s.xnonce,
    fun h => if_pos h, fun h => if_neg h, rfl⟩

end Sys2Proof.Machine
end

section
/-! PROOFS. The invariant in a state with scratch erased (spec 10_state.md R26, R46, R60, R61): IDLE and CHECK
ask of scratch only that it is zero, so the moves of the host (R44), START (R190) and the reset input (R260) keep it. -/

namespace Sys2Proof.Machine

/-- With scratch erased, PHASE in IDLE or CHECK, STATUS legal and the buffers sound, the invariant holds. -/
theorem State.Inv.of_erased {s : State} (hbuf : s.BuffersSound) (hcode : s.PhaseSound) (hst : s.StatusSound)
    (hp : s.inPhase [Phase.idle, Phase.check]) (hz : s.scr = Scratch.zero) : s.Inv := by
  have out {ps : List (BitVec 5)} {P : Prop} (hn : ∀ p ∈ [Phase.idle, Phase.check], p ∉ ps)
      (h : s.inPhase ps) : P := absurd h (hn _ hp)
  have never {p : BitVec 5} {P : Prop} (hn : p ∉ [Phase.idle, Phase.check]) (h : s.phase = p) : P :=
    absurd (h ▸ hp) hn
  refine
    { buffers := hbuf
      phaseCode := hcode
      statusWord := hst
      macRange := by rw [State.MacSound, hz]; decide
      erased := fun _ => hz
      cipher := ⟨?_, ?_, out (by decide), out (by decide), ?_, ?_⟩
      macStage := ⟨?_, ?_, never (by decide), never (by decide), ?_⟩
      descriptor := ⟨fun hn => absurd (List.mem_append_left [Phase.wipe] hp) hn, never (by decide), out (by decide)⟩
      position := ⟨?_, never (by decide), out (by decide), out (by decide), out (by decide)⟩
      authentic := by simp [State.Authenticated, hz]
      results := ⟨?_, ?_, out (by decide), never (by decide), ?_⟩ }
  all_goals simp [hz]

/-- An idle state of the invariant has PHASE = IDLE and scratch erased (R26, R46). -/
theorem State.Inv.idle_erased {s : State} (h : s.Inv) (hb : s.status.busy = false) :
    s.phase = Phase.idle ∧ s.scr = Scratch.zero := (State.Ready.idle_erased ⟨h, hb⟩).2

/-- While idle only the buffers and STATUS are constrained (R46): any other register may be written. -/
theorem State.Inv.of_idle {s t : State} (h : s.Inv) (hb : s.status.busy = false) (hbuf : t.BuffersSound)
    (hst : t.status = s.status) (hp : t.phase = s.phase) (hz : t.scr = s.scr) : t.Inv := by
  obtain ⟨hidle, herased⟩ := h.idle_erased hb
  refine .of_erased hbuf ?_ ?_ ?_ (hz.trans herased)
  · simpa only [State.PhaseSound, State.PhaseNamed, hst, hp] using h.phaseCode
  · simpa only [State.StatusSound, State.inPhase, hst, hp] using h.statusWord
  · simp [State.inPhase, hp, hidle]

/-- The invariant says nothing of the script and of what the host read last (log entry 3). -/
theorem State.Inv.with_host {s : State} (h : s.Inv) (l : List HostMove) (d : HostData) :
    State.Inv { s with script := l, hostData := d } :=
  ⟨h.buffers, h.phaseCode, h.statusWord, h.macRange, h.erased, h.cipher, h.macStage, h.descriptor, h.position,
    h.authentic, h.results⟩

/-- START keeps the invariant: CHECK begins with scratch erased (R46, R190). -/
theorem State.Inv.start {s : State} (h : s.Inv) (v : Word) : (startCommand v s).Inv := by
  cases hb : s.status.busy with
  | true => rwa [startCommand_busy v hb]
  | false =>
    rw [startCommand_idle v hb]
    refine .of_erased h.buffers ?_ ?_ ?_ (h.idle_erased hb).2
    · exact (by decide : Phase.check.toNat ≤ 18 ∧ (true = true ↔ Phase.check ≠ Phase.idle))
    · simp [State.StatusSound, errContract, errAuthentication]
    · simp [State.inPhase]

/-- A write of a register but CMD keeps the invariant (R44). -/
theorem State.Inv.write {s : State} (h : s.Inv) {r : HostReg} (hr : r ≠ .cmd) (v : Word) : (regWrite r v s).Inv := by
  cases hb : s.status.busy with
  | true => rwa [regWrite_busy r v hb]
  | false =>
    have hn : ¬ s.status.busy = true := by simp [hb]
    cases r
    case cmd => exact absurd rfl hr
    all_goals
      rw [regWrite, if_neg hn]
      exact h.of_idle hb h.buffers rfl rfl rfl

/-- The reset input leaves the invariant (R260). -/
theorem resetEvent_inv (s : State) : (resetEvent s).Inv := by
  refine .of_erased ?_ ?_ ?_ ?_ rfl
  · exact ⟨Memory.fill_wf _ _, Memory.fill_wf _ _, Memory.fill_within _ _, Memory.fill_within _ _⟩
  · exact (by decide : State.reset.PhaseSound)
  · exact (by decide : State.reset.StatusSound)
  · exact (by decide : State.reset.inPhase [Phase.idle, Phase.check])

/-- A host move keeps the invariant (R44, R190, R260). -/
theorem MoveEffect.inv {m : HostMove} {s t : State} (h : MoveEffect m s t) (hs : s.Inv) : t.Inv := by
  cases h with
  | start v => exact hs.start v
  | write off v r _ _ hr => exact hs.write hr v
  | read | bufRead | waited => exact hs.with_host _ _
  | bufWrite sp off bs _ hb hc =>
    obtain ⟨hawf, hdwf, hain, hdin⟩ := hs.buffers
    cases sp
    · have hin := Memory.writeBytes_within bs hain hc
      exact hs.of_idle hb ⟨Memory.writeBytes_wf bs hawf off, hdwf, hin, hdin⟩ rfl rfl rfl
    · have hin := Memory.writeBytes_within bs hdin hc
      exact hs.of_idle hb ⟨hawf, Memory.writeBytes_wf bs hdwf off, hain, hin⟩ rfl rfl rfl
  | reset => exact resetEvent_inv s

end Sys2Proof.Machine
end

section
/-! PROOFS. The phases as a graph (spec 45_aead.md R195): which phase can follow which, for the clauses of the invariant
that tie a register to a set of phases. -/

namespace Sys2Proof.Machine

/-- Each phase with the phases its step can leave (R195). -/
def phaseGraph : List (BitVec 5 × List (BitVec 5)) :=
  [(Phase.idle, [Phase.idle]), (Phase.check, [Phase.wipe, Phase.hcLoad]), (Phase.hcLoad, [Phase.hcRound]),
   (Phase.hcRound, [Phase.hcRound, Phase.hcOut]), (Phase.hcOut, [Phase.blkLoad]), (Phase.blkLoad, [Phase.blkRound]),
   (Phase.blkRound, [Phase.blkRound, Phase.blkOut]), (Phase.blkOut, [Phase.otk, Phase.xor]),
   (Phase.otk, [Phase.macInit]), (Phase.xor, [Phase.blkLoad, Phase.wipe]),
   (Phase.macInit, [Phase.macAad, Phase.macData, Phase.macLen]),
   (Phase.macAad, [Phase.macAad, Phase.macData, Phase.macLen]), (Phase.macData, [Phase.macData, Phase.macLen]),
   (Phase.macLen, [Phase.macFinal]), (Phase.macFinal, [Phase.tagOut, Phase.tagCmp]), (Phase.tagOut, [Phase.wipe]),
   (Phase.tagCmp, [Phase.blkLoad, Phase.wipe, Phase.failErase]), (Phase.failErase, [Phase.wipe]),
   (Phase.wipe, [Phase.idle])]

/-- A relation that holds along every edge of the graph. -/
abbrev OnGraph (R : BitVec 5 → BitVec 5 → Prop) : Prop := ∀ e ∈ phaseGraph, ∀ q ∈ e.2, R e.1 q

/-- A state whose phase is p is in no list without p. -/
theorem not_inPhase_of_phase {s : State} {p : BitVec 5} (hp : s.phase = p) {ps : List (BitVec 5)} (hn : p ∉ ps) :
    ¬ s.inPhase ps := by rwa [State.inPhase, hp]

/-- XOR's transfer as one record (R155). -/
theorem xorNext_record (s : State) : xorNext s = { s with
    scr := { s.scr with
      ctr := if s.scr.pos.toNat < s.dlen.toNat then s.scr.ctr + 1 else if s.isEncrypt then 0 else s.scr.ctr }
    phase := if s.scr.pos.toNat < s.dlen.toNat ∨ s.isEncrypt then Phase.blkLoad else Phase.wipe } := by
  unfold xorNext
  split
  · next h1 => rw [if_pos (.inl h1)]
  · next h1 =>
    split
    · next h2 => rw [if_pos (.inr h2)]
    · next h2 =>
      rw [if_neg (fun h => h.elim h1 h2)]
      rfl

/-- A step of the core goes along an edge of the graph. -/
theorem PhaseEffect.edge {s t : State} (h : PhaseEffect s t) :
    ∃ e ∈ phaseGraph, s.phase = e.1 ∧ t.phase ∈ e.2 := by
  cases h
  case hcRound h | blkRound h =>
    rw [roundPhase_record]
    dsimp only
    split
    · simp [phaseGraph, h]
    · simp [phaseGraph, h]
  case blkOut h p h0 h1 =>
    by_cases hc : s.scr.ctr = 0
    · simp [phaseGraph, h, h0 hc]
    · simp [phaseGraph, h, h1 hc]
  case xor h =>
    rw [xorNext_record]
    dsimp only
    split
    · simp [phaseGraph, h]
    · simp [phaseGraph, h]
  case macInit h _ _ p _ _ h1 h2 h3 =>
    rcases Nat.eq_zero_or_pos s.alen.toNat with ha | ha
    · rcases Nat.eq_zero_or_pos s.dlen.toNat with hd | hd
      · simp [phaseGraph, h, h3 ha hd]
      · simp [phaseGraph, h, h2 ha hd]
    · simp [phaseGraph, h, h1 ha]
  case macAadLast h _ p _ _ h1 h0 =>
    rcases Nat.eq_zero_or_pos s.dlen.toNat with hd | hd
    · simp [phaseGraph, h, h0 hd]
    · simp [phaseGraph, h, h1 hd]
  case macFinal h _ p _ h1 h0 =>
    by_cases ho : s.opc = opcEncrypt
    · simp [phaseGraph, h, h1 ho]
    · simp [phaseGraph, h, h0 ho]
  all_goals simp [phaseGraph, ‹s.phase = _›, raiseContractViolation]

/-- What holds along every edge of the graph holds of a step of the core. -/
theorem PhaseEffect.graph {s t : State} (h : PhaseEffect s t) {R : BitVec 5 → BitVec 5 → Prop} (hR : OnGraph R) :
    R s.phase t.phase := by
  obtain ⟨e, he, hs, ht⟩ := h.edge
  rw [hs]
  exact hR e he _ ht

end Sys2Proof.Machine
end

section
/-! PROOFS. The core's step keeps the clauses on STATUS, PHASE, the buffers and the descriptor (spec 10_state.md R26,
R28, R60, R61, 45_aead.md R191). -/

namespace Sys2Proof.Machine

section
variable {s t : State} (h : PhaseEffect s t)
include h

/-- What a step of the core does to STATUS (R191, R200, R214). -/
theorem PhaseEffect.status_cases :
    (s.phase ≠ Phase.wipe ∧ t.status = s.status) ∨
    (t.phase = Phase.wipe ∧ ∃ i, contractFailure s = some i ∧
      t.status = { s.status with err := errContract, errInfo := i }) ∨
    (s.phase = Phase.tagCmp ∧ t.phase = Phase.failErase ∧ t.status = { s.status with err := errAuthentication }) ∨
    (t.phase = Phase.idle ∧ t.status = { s.status with busy := false, done := true }) := by
  cases h
  case violation i hc => exact .inr (.inl ⟨rfl, i, hc, rfl⟩)
  case tagDiffer h _ _ _ _ => exact .inr (.inr (.inl ⟨h, rfl, rfl⟩))
  case wipe => exact .inr (.inr (.inr ⟨rfl, rfl⟩))
  case hcRound h | blkRound h =>
    rw [roundPhase_record]
    exact .inl ⟨by rw [h]; decide, rfl⟩
  case xor h =>
    rw [xorNext_record]
    exact .inl ⟨by rw [h]; decide, rfl⟩
  all_goals exact .inl ⟨by rw [‹s.phase = _›]; decide, rfl⟩

/-- No step of the core writes the descriptor but for TAG and KEY (R71). -/
theorem PhaseEffect.descriptor_eq : t.opc = s.opc ∧ t.sizes = s.sizes ∧ t.alen = s.alen ∧ t.dlen = s.dlen ∧
    t.params = s.params := by
  cases h.writes <;> exact ⟨rfl, rfl, rfl, rfl, rfl⟩

/-- So no step of the core changes what the contract tests say (R191). -/
theorem PhaseEffect.contractFailure_eq : contractFailure t = contractFailure s := by
  obtain ⟨ho, hz, ha, hd, hp⟩ := h.descriptor_eq
  simp only [contractFailure, ho, hz, ha, hd, hp]

/-- What CHECK and MAC_FINAL choose by (R178, R191). -/
theorem PhaseEffect.choice :
    (s.phase = Phase.check → t.phase = Phase.wipe ∨ contractFailure s = none) ∧
    (s.phase = Phase.macFinal → s.opc = opcEncrypt → t.phase = Phase.tagOut) ∧
    (s.phase = Phase.macFinal → s.opc ≠ opcEncrypt → t.phase = Phase.tagCmp) := by
  have never {p q : BitVec 5} {P : Prop} (hp : s.phase = p) (hn : p ≠ q) (hq : s.phase = q) : P :=
    absurd (hp.symm.trans hq) hn
  cases h
  case violation h _ _ => exact ⟨fun _ => .inl rfl, never h (by decide), never h (by decide)⟩
  case checked h hc => exact ⟨fun _ => .inr hc, never h (by decide), never h (by decide)⟩
  case macFinal h _ _ _ h1 h0 => exact ⟨never h (by decide), fun _ => h1, fun _ => h0⟩
  all_goals exact ⟨never ‹_› (by decide), never ‹_› (by decide), never ‹_› (by decide)⟩

variable (hs : s.Inv)
include hs

/-- A step of the core keeps the buffers sound: XOR and FAIL_ERASE write inside the data (R66, R67). -/
theorem PhaseEffect.buffersSound : t.BuffersSound := by
  obtain ⟨hawf, hdwf, hain, hdin⟩ := hs.buffers
  cases h.writes with
  | xor hp =>
    refine ⟨hawf, Memory.writeBytes_wf _ hdwf _, hain, Memory.writeBytes_within _ hdin ?_⟩
    rw [length_xorChunk]
    exact hs.xorChunk_le hp
  | erase hp =>
    refine ⟨hawf, Memory.writeBytes_wf _ hdwf _, hain, Memory.writeBytes_within _ hdin ?_⟩
    simpa using hs.erased_le hp
  | scratch | status | tag | wipe => exact hs.buffers

/-- A step of the core keeps the clauses on the descriptor: past CHECK it is legal, and MAC_FINAL separates the commands
(R178, R191). -/
theorem PhaseEffect.descriptorSound : t.DescriptorSound := by
  obtain ⟨hlegal, -, hcmp⟩ := hs.descriptor
  obtain ⟨ho, -⟩ := h.descriptor_eq
  obtain ⟨hcheck, henc, hdec⟩ := h.choice
  rw [State.DescriptorSound, h.contractFailure_eq, ho]
  refine ⟨fun ht => ?_, fun ht => ?_, fun ht => ?_⟩
  · rcases h.graph (R := fun p q => q ∉ [Phase.idle, Phase.check, Phase.wipe] →
      p = Phase.check ∨ p ∉ [Phase.idle, Phase.check, Phase.wipe]) (by decide) ht with hp | hp
    · exact (hcheck hp).resolve_left fun hw => ht (by simp [hw])
    · exact hlegal hp
  · have hp := h.graph (R := fun p q => q = Phase.tagOut → p = Phase.macFinal) (by decide) ht
    by_contra hne
    exact absurd (ht.symm.trans (hdec hp hne)) (by decide)
  · rcases h.graph (R := fun p q => q ∈ [Phase.tagCmp, Phase.failErase] →
      p = Phase.macFinal ∨ p = Phase.tagCmp) (by decide) ht with hp | hp
    · have hne : s.opc ≠ opcEncrypt := fun he => not_inPhase_of_phase (henc hp he) (by decide) ht
      have hnone := hlegal (not_inPhase_of_phase hp (by decide))
      exact ((contractFailure_none_iff s).1 hnone).1.resolve_left hne
    · exact hcmp (List.mem_cons.2 (.inl hp))

variable (hb : s.status.busy = true)
include hb

/-- A step of the busy core keeps PHASE and BUSY coupled: only WIPE leads to IDLE, and it clears BUSY (R26). -/
theorem PhaseEffect.phaseSound : t.PhaseSound := by
  have hnamed : t.phase.toNat ≤ 18 := h.graph (R := fun _ q => q.toNat ≤ 18) (by decide)
  obtain ⟨-, hbusy⟩ := hs.phaseCode
  refine ⟨hnamed, ?_⟩
  rcases h.status_cases with ⟨hw, he⟩ | ⟨hp, i, -, he⟩ | ⟨-, hp, he⟩ | ⟨hp, he⟩
  · have ht0 : t.phase ≠ Phase.idle := fun ht =>
      (h.graph (R := fun p q => q = Phase.idle → p = Phase.idle ∨ p = Phase.wipe) (by decide) ht).elim (hbusy.1 hb) hw
    simp [he, hb, ht0]
  · simp [he, hb, hp, (by decide : Phase.wipe ≠ Phase.idle)]
  · simp [he, hb, hp, (by decide : Phase.failErase ≠ Phase.idle)]
  · simp [he, hp]

/-- A step of the busy core keeps STATUS legal: an error is recorded on its own path only (R28, R233, R234). -/
theorem PhaseEffect.statusSound : t.StatusSound := by
  obtain ⟨h3, hinfo, hrange, hdone, hcontract, hauth⟩ := hs.statusWord
  rcases h.status_cases with ⟨hw, he⟩ | ⟨hp, i, hc, he⟩ | ⟨hq, hp, he⟩ | ⟨-, he⟩
  all_goals rw [State.StatusSound, he]
  · refine ⟨h3, hinfo, hrange, hdone, fun _ hc => absurd (hcontract hb hc) hw, fun _ ha => ?_⟩
    have hfail : s.phase = Phase.failErase := (List.mem_pair.1 (hauth hb ha)).resolve_right hw
    exact h.graph (R := fun p q => p = Phase.failErase → q ∈ [Phase.failErase, Phase.wipe]) (by decide) hfail
  · exact ⟨(by decide : errContract ≠ 3), fun hn => absurd rfl hn, fun _ => contractFailure_range hc,
      fun _ => hdone hb, fun _ _ => hp, fun _ hn => absurd hn (by decide : errContract ≠ errAuthentication)⟩
  · have hnot : s.status.err ≠ errContract := fun hc => absurd (hq.symm.trans (hcontract hb hc)) (by decide)
    have hne : errAuthentication ≠ errContract := by decide
    exact ⟨(by decide : errAuthentication ≠ 3), fun _ => hinfo hnot, fun hn => absurd hn hne, fun _ => hdone hb,
      fun _ hn => absurd hn hne, fun _ _ => by simp [State.inPhase, hp]⟩
  · exact ⟨h3, hinfo, hrange, nofun, nofun, nofun⟩

end

end Sys2Proof.Machine
end

section
/-! PROOFS. The core's step keeps the clauses on the cipher registers (spec 10_state.md R22 to R24, R38). -/

namespace Sys2Proof.Machine

/-- Outside their phases the cipher registers are zero (R22, R23, R24, R38). -/
theorem State.CipherSound.zero {s : State} (h : s.CipherSound) {p : BitVec 5} (hp : s.phase = p) :
    (p ∉ cipherPhases → s.scr.w = zeroWords ∧ s.scr.rnd = 0) ∧
    (p ∉ [Phase.blkRound, Phase.blkOut] → s.scr.s0 = zeroWords) ∧
    (p ∉ [Phase.otk, Phase.xor] → s.scr.ks = zeroBytes 64) := by
  obtain ⟨hw, hs0, -, -, hr, hk⟩ := h
  subst hp
  exact ⟨fun hn => ⟨not_imp_comm.1 hw hn, hr hn⟩, not_imp_comm.1 hs0, not_imp_comm.1 hk⟩

section
variable {t : State}

/-- The clauses on the cipher registers in a phase that does not work on the cipher state. -/
theorem State.CipherSound.of_zero (hp : ¬ t.inPhase cipherPhases) (hw : t.scr.w = zeroWords)
    (hs0 : t.scr.s0 = zeroWords) (hr : t.scr.rnd = 0)
    (hk : t.scr.ks ≠ zeroBytes 64 → t.inPhase [Phase.otk, Phase.xor]) : t.CipherSound := by
  refine ⟨absurd hw, absurd hs0, fun hin => absurd ?_ hp, fun hin => absurd ?_ hp, fun _ => hr, hk⟩
  · exact (by decide : ∀ p ∈ [Phase.hcRound, Phase.blkRound], p ∈ cipherPhases) _ hin
  · exact (by decide : ∀ p ∈ [Phase.hcOut, Phase.blkOut], p ∈ cipherPhases) _ hin

/-- The clauses on the cipher registers in a ROUND phase. -/
theorem State.CipherSound.of_round (hp : t.inPhase [Phase.hcRound, Phase.blkRound])
    (hs0 : t.scr.s0 ≠ zeroWords → t.inPhase [Phase.blkRound, Phase.blkOut]) (hr : t.scr.rnd.toNat < 20)
    (hk : t.scr.ks = zeroBytes 64) : t.CipherSound := by
  obtain ⟨hin, hout⟩ := (by decide : ∀ p ∈ [Phase.hcRound, Phase.blkRound],
    p ∈ cipherPhases ∧ p ∉ [Phase.hcOut, Phase.blkOut]) _ hp
  exact ⟨fun _ => hin, hs0, fun _ => hr, fun h => absurd h hout, absurd hin, absurd hk⟩

/-- The clauses on the cipher registers before an OUT step (log entry 9). -/
theorem State.CipherSound.of_out (hp : t.inPhase [Phase.hcOut, Phase.blkOut])
    (hs0 : t.scr.s0 ≠ zeroWords → t.inPhase [Phase.blkRound, Phase.blkOut]) (hr : t.scr.rnd = 20)
    (hk : t.scr.ks = zeroBytes 64) : t.CipherSound := by
  obtain ⟨hin, hround⟩ := (by decide : ∀ p ∈ [Phase.hcOut, Phase.blkOut],
    p ∈ cipherPhases ∧ p ∉ [Phase.hcRound, Phase.blkRound]) _ hp
  exact ⟨fun _ => hin, hs0, fun h => absurd h hround, fun _ => hr, absurd hin, absurd hk⟩

end

/-- A step of the core keeps the clauses on the cipher registers: the ROUND phases count RND up to 20, and every other
phase leaves zero what its successor does not work on. -/
theorem PhaseEffect.cipherSound {s t : State} (h : PhaseEffect s t) (hs : s.Inv) : t.CipherSound := by
  obtain ⟨-, hs0in, hlt, -, -, -⟩ := hs.cipher
  have hout {p : BitVec 5} (hp : s.phase = p)
      (hn : p ∉ [Phase.hcLoad, Phase.hcRound, Phase.blkLoad, Phase.blkRound]) : ¬ t.inPhase cipherPhases :=
    h.graph (R := fun p q => p ∉ [Phase.hcLoad, Phase.hcRound, Phase.blkLoad, Phase.blkRound] → q ∉ cipherPhases)
      (by decide) (not_inPhase_of_phase hp hn)
  have hround : s.inPhase [Phase.hcRound, Phase.blkRound] → s.inPhase [Phase.blkRound, Phase.blkOut] →
      t.inPhase [Phase.blkRound, Phase.blkOut] :=
    h.graph (R := fun p q => p ∈ [Phase.hcRound, Phase.blkRound] → p ∈ [Phase.blkRound, Phase.blkOut] →
      q ∈ [Phase.blkRound, Phase.blkOut]) (by decide)
  have hks : s.phase = Phase.blkOut → t.inPhase [Phase.otk, Phase.xor] :=
    h.graph (R := fun p q => p = Phase.blkOut → q ∈ [Phase.otk, Phase.xor]) (by decide)
  cases h
  case hcLoad h =>
    obtain ⟨-, hs0, hk⟩ := hs.cipher.zero h
    exact .of_round (by simp) (absurd (hs0 (by decide))) (by simp) (hk (by decide))
  case blkLoad h =>
    obtain ⟨-, -, hk⟩ := hs.cipher.zero h
    exact .of_round (by simp) (fun _ => by simp) (by simp) (hk (by decide))
  case hcRound h | blkRound h =>
    obtain ⟨-, -, hk⟩ := hs.cipher.zero h
    have hin : s.inPhase [Phase.hcRound, Phase.blkRound] := by simp [h]
    have hr := hlt hin
    rcases roundPhase_cases _ s with ⟨-, he⟩ | ⟨hne, he⟩
    all_goals rw [he] at hround ⊢
    · exact .of_out (by simp) (fun hn => hround hin (hs0in hn)) rfl (hk (by decide))
    · exact .of_round hin (fun hn => hround hin (hs0in hn)) (by bv_omega) (hk (by decide))
  case hcOut h _ _ _ =>
    obtain ⟨-, hs0, hk⟩ := hs.cipher.zero h
    exact .of_zero (hout h (by decide)) rfl (hs0 (by decide)) rfl (absurd (hk (by decide)))
  case blkOut h _ _ _ => exact .of_zero (hout h (by decide)) rfl rfl rfl fun _ => hks h
  case otk h =>
    obtain ⟨hw, hs0, -⟩ := hs.cipher.zero h
    obtain ⟨hw, hr⟩ := hw (by decide)
    exact .of_zero (hout h (by decide)) hw (hs0 (by decide)) hr (absurd rfl)
  case xor h =>
    obtain ⟨hw, hs0, -⟩ := hs.cipher.zero h
    obtain ⟨hw, hr⟩ := hw (by decide)
    rw [xorNext_record] at hout ⊢
    exact .of_zero (hout h (by decide)) hw (hs0 (by decide)) hr (absurd rfl)
  case wipe h => exact .of_zero (hout h (by decide)) rfl rfl rfl (absurd rfl)
  all_goals
    obtain ⟨hw, hs0, hk⟩ := hs.cipher.zero ‹s.phase = _›
    obtain ⟨hw, hr⟩ := hw (by decide)
    exact .of_zero (hout ‹s.phase = _› (by decide)) hw (hs0 (by decide)) hr (absurd (hk (by decide)))

end Sys2Proof.Machine
end

section
/-! PROOFS. The core's step keeps the clauses on the MAC registers and the one-time key (spec 10_state.md R27, R39, R40,
44_poly1305.md R176, R178, 45_aead.md R196 to R198). -/

namespace Sys2Proof.Machine

/-- A running offset advanced by its chunk, as a number: no wrap (R64, R155, R196, R197). -/
theorem toNat_add_chunkLen {off len : BitVec 64} (h : off.toNat < len.toNat) (unit : Nat) :
    (off + BitVec.ofNat 64 (chunkLen unit len.toNat off.toNat)).toNat = min (off.toNat + unit) len.toNat := by
  have := len.isLt
  rw [BitVec.toNat_add, BitVec.toNat_ofNat, chunkLen]
  omega

/-- A running offset that has not reached the end of its segment is inside it (R196, R197). -/
theorem add_chunkLen_lt {off len m : BitVec 64} {unit : Nat} (h : off.toNat < len.toNat)
    (hm : m = off + BitVec.ofNat 64 (chunkLen unit len.toNat off.toNat)) (hne : m ≠ len) : m.toNat < len.toNat := by
  have hle : m.toNat ≤ len.toNat := by
    rw [hm, toNat_add_chunkLen h]
    exact Nat.min_le_right _ _
  exact Nat.lt_of_le_of_ne hle fun he => hne (BitVec.eq_of_toNat_eq he)

/-- A step of the core keeps the MAC registers in their ranges (R171, R173, R179). -/
theorem PhaseEffect.macSound {s t : State} (h : PhaseEffect s t) (hs : s.Inv) : t.MacSound := by
  obtain ⟨hacc, hr, hsum⟩ := hs.macRange
  have hzero : 0 < polyP := by decide
  cases h
  case macInit r' s' p hr' hs' _ _ _ =>
    rw [State.MacSound, hr', hs']
    exact ⟨hzero, macR_clamped _, macS_lt _⟩
  case macAadLast hacc _ _ _ | macAadMore hacc _ _ | macDataLast hacc _ | macDataMore hacc _ _ | macLen hacc =>
    rw [State.MacSound, hacc]
    exact ⟨absorbed_lt _ _, hr, hsum⟩
  case macFinal | wipe => exact ⟨hzero, Nat.zero_and _, (by decide : 0 < tagModulus)⟩
  case hcRound | blkRound =>
    rw [roundPhase_record]
    exact ⟨hacc, hr, hsum⟩
  case xor =>
    rw [xorNext_record]
    exact ⟨hacc, hr, hsum⟩
  all_goals exact ⟨hacc, hr, hsum⟩

/-- Outside their phases the one-time key and the MAC registers are zero, and so is MPOS (R27, R39, R40). -/
theorem State.MacStaged.zero {s : State} (h : s.MacStaged) {p : BitVec 5} (hp : s.phase = p) :
    (p ∉ Phase.macInit :: macPhases → s.scr.otk = zeroBytes 32) ∧
    (p ∉ macPhases → s.scr.r = 0 ∧ s.scr.s = 0 ∧ s.scr.acc = 0) ∧
    (p ∉ [Phase.macAad, Phase.macData] → s.scr.mpos = 0) := by
  obtain ⟨hotk, hmac, -, -, hm⟩ := h
  subst hp
  refine ⟨not_imp_comm.1 hotk, fun hn => ?_, hm⟩
  simpa only [not_or, not_not] using mt hmac hn

section
variable {t : State}

/-- The clauses on the MAC registers outside the MAC phases. -/
theorem State.MacStaged.of_zero (hp : ¬ t.inPhase (Phase.macInit :: macPhases)) (hotk : t.scr.otk = zeroBytes 32)
    (hmac : t.scr.r = 0 ∧ t.scr.s = 0 ∧ t.scr.acc = 0) (hm : t.scr.mpos = 0) : t.MacStaged := by
  refine ⟨absurd hotk, fun hn => ?_, fun h => absurd ?_ hp, fun h => absurd ?_ hp, fun _ => hm⟩
  · obtain ⟨hr, hs, ha⟩ := hmac
    simp [hr, hs, ha] at hn
  · simp [h, macPhases]
  · simp [h, macPhases]

/-- The clauses on the MAC registers in a MAC phase: only MPOS is bound. -/
theorem State.MacStaged.of_mac (hp : t.inPhase macPhases)
    (ha : t.phase = Phase.macAad → t.scr.mpos.toNat < t.alen.toNat)
    (hd : t.phase = Phase.macData → t.scr.mpos.toNat < t.dlen.toNat)
    (hm : ¬ t.inPhase [Phase.macAad, Phase.macData] → t.scr.mpos = 0) : t.MacStaged :=
  ⟨fun _ => List.mem_cons_of_mem _ hp, fun _ => hp, ha, hd, hm⟩

end

/-- A step of the core keeps the clauses on the MAC registers. -/
theorem PhaseEffect.macStaged {s t : State} (h : PhaseEffect s t) (hs : s.Inv) : t.MacStaged := by
  obtain ⟨-, -, haad, hdata, -⟩ := hs.macStage
  have hout {p : BitVec 5} (hp : s.phase = p)
      (hn : p ∉ [Phase.otk, Phase.macInit, Phase.macAad, Phase.macData, Phase.macLen]) :
      ¬ t.inPhase (Phase.macInit :: macPhases) :=
    h.graph (R := fun p q => p ∉ [Phase.otk, Phase.macInit, Phase.macAad, Phase.macData, Phase.macLen] →
      q ∉ Phase.macInit :: macPhases) (by decide) (not_inPhase_of_phase hp hn)
  have hin : s.inPhase [Phase.macInit, Phase.macAad, Phase.macData, Phase.macLen] → t.inPhase macPhases :=
    h.graph (R := fun p q => p ∈ [Phase.macInit, Phase.macAad, Phase.macData, Phase.macLen] → q ∈ macPhases)
      (by decide)
  cases h
  case otk h =>
    obtain ⟨-, hmac, hm⟩ := hs.macStage.zero h
    obtain ⟨hr, hs, ha⟩ := hmac (by decide)
    refine ⟨fun _ => by simp, fun hn => ?_, fun hp => ?_, fun hp => ?_, fun _ => hm (by decide)⟩
    · simp [hr, hs, ha] at hn
    · exact absurd hp (by decide : Phase.macInit ≠ Phase.macAad)
    · exact absurd hp (by decide : Phase.macInit ≠ Phase.macData)
  case macInit h _ _ p _ _ h1 h2 h3 =>
    refine .of_mac (hin (by simp [h])) (fun hp => Nat.pos_of_ne_zero fun ha => ?_)
      (fun hp => Nat.pos_of_ne_zero fun hd => ?_) fun _ => rfl
    · rcases Nat.eq_zero_or_pos s.dlen.toNat with hd | hd
      · exact absurd ((h3 ha hd).symm.trans hp) (by decide)
      · exact absurd ((h2 ha hd).symm.trans hp) (by decide)
    · rcases Nat.eq_zero_or_pos s.alen.toNat with ha | ha
      · exact absurd ((h3 ha hd).symm.trans hp) (by decide)
      · exact absurd ((h1 ha).symm.trans hp) (by decide)
  case macAadLast h _ p _ _ h1 h0 =>
    refine .of_mac (hin (by simp [h])) (fun hp => ?_) (fun hp => Nat.pos_of_ne_zero fun hd => ?_) fun _ => rfl
    · rcases Nat.eq_zero_or_pos s.dlen.toNat with hd | hd
      · exact absurd ((h0 hd).symm.trans hp) (by decide)
      · exact absurd ((h1 hd).symm.trans hp) (by decide)
    · exact absurd ((h0 hd).symm.trans hp) (by decide)
  case macAadMore h _ m _ hm hne =>
    refine .of_mac (hin (by simp [h])) (fun hp => ?_) (fun hp => ?_) fun hn => ?_
    · exact add_chunkLen_lt (haad h) hm hne
    · exact absurd (h.symm.trans hp) (by decide)
    · exact absurd (by simp [h]) hn
  case macDataMore h _ m _ hm hne =>
    refine .of_mac (hin (by simp [h])) (fun hp => ?_) (fun hp => ?_) fun hn => ?_
    · exact absurd (h.symm.trans hp) (by decide)
    · exact add_chunkLen_lt (hdata h) hm hne
    · exact absurd (by simp [h]) hn
  case macDataLast =>
    exact .of_mac (by simp [macPhases]) (fun hp => absurd hp (by decide : Phase.macLen ≠ Phase.macAad))
      (fun hp => absurd hp (by decide : Phase.macLen ≠ Phase.macData)) fun _ => rfl
  case macLen h _ _ _ _ =>
    obtain ⟨-, -, hm⟩ := hs.macStage.zero h
    exact .of_mac (by simp [macPhases]) (fun hp => absurd hp (by decide : Phase.macFinal ≠ Phase.macAad))
      (fun hp => absurd hp (by decide : Phase.macFinal ≠ Phase.macData)) fun _ => hm (by decide)
  case macFinal h _ _ _ _ _ =>
    obtain ⟨-, -, hm⟩ := hs.macStage.zero h
    exact .of_zero (hout h (by decide)) rfl ⟨rfl, rfl, rfl⟩ (hm (by decide))
  case wipe h => exact .of_zero (hout h (by decide)) rfl ⟨rfl, rfl, rfl⟩ rfl
  case hcRound h | blkRound h =>
    obtain ⟨hotk, hmac, hm⟩ := hs.macStage.zero h
    rw [roundPhase_record] at hout ⊢
    exact .of_zero (hout h (by decide)) (hotk (by decide)) (hmac (by decide)) (hm (by decide))
  case xor h =>
    obtain ⟨hotk, hmac, hm⟩ := hs.macStage.zero h
    rw [xorNext_record] at hout ⊢
    exact .of_zero (hout h (by decide)) (hotk (by decide)) (hmac (by decide)) (hm (by decide))
  all_goals
    obtain ⟨hotk, hmac, hm⟩ := hs.macStage.zero ‹s.phase = _›
    exact .of_zero (hout ‹s.phase = _› (by decide)) (hotk (by decide)) (hmac (by decide)) (hm (by decide))

end Sys2Proof.Machine
end

section
/-! PROOFS. The core's step keeps the clauses on the block counter and the data offset (spec 10_state.md R25, R27,
43_xchacha20.md R155, 45_aead.md R195, R203). -/

namespace Sys2Proof.Machine

/-- POS after an XOR step's chunk, as a number (R155). -/
theorem toNat_xorBody_pos {s : State} (h : s.scr.pos.toNat < s.dlen.toNat) :
    (xorBody s).scr.pos.toNat = min (s.scr.pos.toNat + 64) s.dlen.toNat := toNat_add_chunkLen h 64

/-- Where an XOR step begins (R155): its chunk's place in the data, and the data not too long for the counter (R8). -/
theorem State.Inv.xor_entry {s : State} (h : s.Inv) (hp : s.phase = Phase.xor) :
    s.scr.ctr.toNat ≠ 0 ∧ s.scr.pos.toNat = 64 * (s.scr.ctr.toNat - 1) ∧ s.scr.pos.toNat < s.dlen.toNat ∧
      s.dlen.toNat ≤ (2 ^ 32 - 1) * 64 := by
  obtain ⟨-, hctr, -, hdata, -⟩ := h.position
  obtain ⟨hpos, hlt⟩ := hdata (by simp [hp]) (hctr hp)
  obtain ⟨hlegal, -, -⟩ := h.descriptor
  have hnone := hlegal (not_inPhase_of_phase hp (by decide))
  obtain ⟨-, -, -, -, -, -, hmax⟩ := (contractFailure_none_iff s).1 hnone
  exact ⟨fun h0 => hctr hp (BitVec.eq_of_toNat_eq h0), hpos, hlt, hmax⟩

/-- What a step of the core does to CTR and POS: one case per place that sets the counter (R143, R155, R200, R214). -/
inductive CounterStep (s t : State) : Prop where
  /-- The counter stays; BLK_OUT goes by it to the one-time key or to the data. -/
  | kept (hp : s.phase ∉ [Phase.hcOut, Phase.xor, Phase.wipe])
      (hcmp : s.phase = Phase.tagCmp → t.phase ≠ Phase.blkLoad)
      (hotk : t.phase = Phase.otk → s.scr.ctr = 0) (hxor : t.phase = Phase.xor → s.scr.ctr ≠ 0)
      (hc : t.scr.ctr = s.scr.ctr) (hpos : t.scr.pos = s.scr.pos)
  /-- HC_OUT chooses the first block: the first of the data in ENCRYPT, else the one-time key's. -/
  | first (hp : s.phase = Phase.hcOut) (ht : t.phase = Phase.blkLoad) (hpos : t.scr.pos = s.scr.pos)
      (h1 : s.opc = opcEncrypt → 0 < s.dlen.toNat → t.scr.ctr = 1)
      (h0 : s.opc ≠ opcEncrypt ∨ s.dlen.toNat = 0 → t.scr.ctr = 0)
  /-- XOR with more data to come. -/
  | more (hp : s.phase = Phase.xor) (ht : t.phase = Phase.blkLoad) (hc : t.scr.ctr.toNat = s.scr.ctr.toNat + 1)
      (hpos : t.scr.pos.toNat = 64 * s.scr.ctr.toNat) (hlt : t.scr.pos.toNat < s.dlen.toNat)
      (hne : t.scr.ctr ≠ 0)
  /-- XOR after the last chunk of ENCRYPT: the one-time key's block is next. -/
  | last (hp : s.phase = Phase.xor) (ht : t.phase = Phase.blkLoad) (he : s.opc = opcEncrypt) (hc : t.scr.ctr = 0)
      (hpos : t.scr.pos = s.dlen)
  /-- XOR after the last chunk of DECRYPT: the command is over. -/
  | finished (hp : s.phase = Phase.xor) (ht : t.phase = Phase.wipe) (hc : t.scr.ctr = s.scr.ctr)
  /-- TAG_CMP on equal tags with data to decrypt. -/
  | verified (hp : s.phase = Phase.tagCmp) (ht : t.phase = Phase.blkLoad) (he : s.scr.ctag = s.tag)
      (hd : 0 < s.dlen.toNat) (hc : t.scr.ctr = 1) (hpos : t.scr.pos = s.scr.pos)
  /-- WIPE. -/
  | erased (ht : t.phase = Phase.idle) (hc : t.scr.ctr = 0)

/-- XOR's choice of what follows, in a state of the invariant (R155): a next counter does not wrap. -/
theorem State.Inv.xor_counter {s : State} (hs : s.Inv) (hp : s.phase = Phase.xor) :
    CounterStep s (xorNext (xorBody s)) := by
  obtain ⟨h0, hpos, hlt, hmax⟩ := hs.xor_entry hp
  have hend := toNat_xorBody_pos hlt
  obtain ⟨c, p, he, hmore, hlast, hfinished⟩ := xorNext_cases (xorBody s)
  rw [he]
  rcases Nat.lt_or_ge (xorBody s).scr.pos.toNat s.dlen.toNat with hin | hdone
  · obtain ⟨hc, ht⟩ := hmore hin
    have hnext : (xorBody s).scr.pos.toNat = 64 * s.scr.ctr.toNat := by omega
    have hwrap : (1 : Word).toNat = 1 := rfl
    have hctr : c.toNat = s.scr.ctr.toNat + 1 := by
      rw [show c = s.scr.ctr + 1 from hc, BitVec.toNat_add, hwrap]
      omega
    exact .more hp ht hctr hnext hin fun hz => Nat.succ_ne_zero _ (hctr.symm.trans (congrArg BitVec.toNat hz))
  · have hfull : (xorBody s).scr.pos = s.dlen := BitVec.eq_of_toNat_eq (by omega)
    by_cases henc : s.opc = opcEncrypt
    · obtain ⟨hc, ht⟩ := hlast hdone henc
      exact .last hp ht henc hc hfull
    · obtain ⟨hc, ht⟩ := hfinished hdone henc
      exact .finished hp ht hc

/-- Every step of the core treats CTR and POS in one of these ways. -/
theorem PhaseEffect.counter {s t : State} (h : PhaseEffect s t) (hs : s.Inv) : CounterStep s t := by
  have hotk : t.phase = Phase.otk → s.phase = Phase.blkOut :=
    h.graph (R := fun p q => q = Phase.otk → p = Phase.blkOut) (by decide)
  have hxor : t.phase = Phase.xor → s.phase = Phase.blkOut :=
    h.graph (R := fun p q => q = Phase.xor → p = Phase.blkOut) (by decide)
  have never {p q : BitVec 5} {P : Prop} (hp : s.phase = p) (hne : p ≠ q) (hq : s.phase = q) : P :=
    absurd (hp.symm.trans hq) hne
  cases h
  case hcOut h c h1 h0 => exact .first h rfl rfl h1 h0
  case xor h => exact hs.xor_counter h
  case tagEqual h he hd => exact .verified h rfl he hd rfl rfl
  case wipe => exact .erased rfl rfl
  case blkOut h p h0 h1 =>
    refine .kept (by rw [h]; decide) (never h (by decide)) (fun hp => ?_) (fun hp hc => ?_) rfl rfl
    · by_contra hc
      exact absurd ((h1 hc).symm.trans hp) (by decide)
    · exact absurd ((h0 hc).symm.trans hp) (by decide)
  case tagEqualEmpty h _ _ =>
    exact .kept (by rw [h]; decide) (fun _ => (by decide : Phase.wipe ≠ Phase.blkLoad))
      (fun ht => never h (by decide) (hotk ht)) (fun ht => never h (by decide) (hxor ht)) rfl rfl
  case tagDiffer h _ _ _ _ =>
    exact .kept (by rw [h]; decide) (fun _ => (by decide : Phase.failErase ≠ Phase.blkLoad))
      (fun ht => never h (by decide) (hotk ht)) (fun ht => never h (by decide) (hxor ht)) rfl rfl
  case hcRound h | blkRound h =>
    rw [roundPhase_record] at hotk hxor ⊢
    exact .kept (by rw [h]; decide) (never h (by decide)) (fun ht => never h (by decide) (hotk ht))
      (fun ht => never h (by decide) (hxor ht)) rfl rfl
  all_goals
    exact .kept (by rw [‹s.phase = _›]; decide) (never ‹_› (by decide))
      (fun ht => never ‹_› (by decide) (hotk ht)) (fun ht => never ‹_› (by decide) (hxor ht)) rfl rfl

/-- A step that keeps the counter enters a block phase from a block phase only, and a phase of the tag from one of
those or of the tag. -/
theorem PhaseEffect.back_of_kept {s t : State} (h : PhaseEffect s t)
    (hp : s.phase ∉ [Phase.hcOut, Phase.xor, Phase.wipe])
    (hcmp : s.phase = Phase.tagCmp → t.phase ≠ Phase.blkLoad) :
    (t.inPhase (Phase.xor :: blockPhases) → s.inPhase (Phase.xor :: blockPhases)) ∧
    (t.inPhase (blockPhases ++ tagPhases) → s.inPhase (blockPhases ++ tagPhases)) :=
  h.graph (R := fun p q => p ∉ [Phase.hcOut, Phase.xor, Phase.wipe] → (p = Phase.tagCmp → q ≠ Phase.blkLoad) →
    (q ∈ Phase.xor :: blockPhases → p ∈ Phase.xor :: blockPhases) ∧
    (q ∈ blockPhases ++ tagPhases → p ∈ blockPhases ++ tagPhases)) (by decide) hp hcmp

/-- TAG_CMP is a phase of DECRYPT (R195). -/
theorem State.Inv.decrypt_of_tagCmp {s : State} (h : s.Inv) (hp : s.phase = Phase.tagCmp) : s.opc = opcDecrypt := by
  obtain ⟨-, -, hcmp⟩ := h.descriptor
  exact hcmp (by simp [hp])

section
variable {t : State}

/-- The clauses on CTR and POS when no block is under way. -/
theorem State.PositionSound.of_none (hp : t.inPhase [Phase.idle, Phase.failErase, Phase.wipe]) :
    t.PositionSound := by
  obtain ⟨hearly, hxor, htag, hdata, hkey⟩ := (by decide : ∀ p ∈ [Phase.idle, Phase.failErase, Phase.wipe],
    p ∉ earlyPhases ∧ p ≠ Phase.xor ∧ p ∉ tagPhases ∧ p ∉ Phase.xor :: blockPhases ∧
      p ∉ blockPhases ++ tagPhases) _ hp
  exact ⟨fun h => absurd h hearly, fun h => absurd h hxor, fun h => absurd h htag, fun h => absurd h hdata,
    fun h => absurd h hkey⟩

/-- The clauses on CTR and POS at BLK_LOAD: a data block by its number, or the one-time key's block (R25, R203). -/
theorem State.PositionSound.of_blkLoad (hp : t.phase = Phase.blkLoad)
    (hdata : t.scr.ctr ≠ 0 → t.scr.pos.toNat = 64 * (t.scr.ctr.toNat - 1) ∧ t.scr.pos.toNat < t.dlen.toNat)
    (hkey : t.scr.ctr = 0 →
      (t.opc = opcEncrypt → t.scr.pos = t.dlen) ∧ (t.opc ≠ opcEncrypt → t.scr.pos = 0)) :
    t.PositionSound :=
  ⟨fun h => absurd h (not_inPhase_of_phase hp (by decide)), fun h => absurd (hp.symm.trans h) (by decide),
    fun h => absurd h (not_inPhase_of_phase hp (by decide)), fun _ => hdata, fun _ => hkey⟩

end

/-- A step of the core keeps CTR and POS in step. -/
theorem PhaseEffect.positionSound {s t : State} (h : PhaseEffect s t) (hs : s.Inv) : t.PositionSound := by
  obtain ⟨hearly, hxor, htag, hdata, hkey⟩ := hs.position
  obtain ⟨ho, -, -, hd, -⟩ := h.descriptor_eq
  cases h.counter hs with
  | kept hp hcmp hotk hxor hc hpos =>
    obtain ⟨hblock, htagged⟩ := h.back_of_kept hp hcmp
    rw [State.PositionSound, hc, hpos, ho, hd]
    refine ⟨fun ht => hearly ?_, hxor, fun ht => ?_, fun ht => hdata (hblock ht), fun ht => hkey (htagged ht)⟩
    · exact h.graph (R := fun p q => q ∈ earlyPhases → p ∈ earlyPhases) (by decide) ht
    · rcases h.graph (R := fun p q => q ∈ tagPhases → q = Phase.otk ∨ p ∈ tagPhases) (by decide) ht
        with hq | hin
      · exact hotk hq
      · exact htag hin
  | first hp ht hpos h1 h0 =>
    obtain ⟨-, hpos0⟩ := hearly (by simp [hp, earlyPhases])
    have hnum : t.scr.pos.toNat = 0 := by rw [hpos, hpos0]; rfl
    refine .of_blkLoad ht (fun hc => ?_) fun hc => ⟨fun he => ?_, fun _ => hpos.trans hpos0⟩
    · have henc : s.opc = opcEncrypt := by_contra fun hn => hc (h0 (.inl hn))
      have hlen : s.dlen.toNat ≠ 0 := fun hn => hc (h0 (.inr hn))
      rw [h1 henc (by omega), hnum, hd]
      exact ⟨rfl, by omega⟩
    · have hlen : s.dlen.toNat = 0 := by
        by_contra hn
        rw [h1 (ho.symm.trans he) (by omega)] at hc
        exact absurd hc (by decide)
      exact BitVec.eq_of_toNat_eq (by rw [hnum, hd, hlen])
  | more hp ht hc hpos hlt hne =>
    exact .of_blkLoad ht (fun _ => ⟨by omega, by rwa [hd]⟩) fun h0 => absurd h0 hne
  | last hp ht he hc hpos =>
    exact .of_blkLoad ht (absurd hc) fun _ => ⟨fun _ => by rw [hpos, hd], fun hn => absurd (ho.trans he) hn⟩
  | finished hp ht => exact .of_none (by simp [ht])
  | verified hp ht _ hlen hc hpos =>
    have hne : s.opc ≠ opcEncrypt := by rw [hs.decrypt_of_tagCmp hp]; decide
    have hzero : s.scr.ctr = 0 := htag (by simp [hp, tagPhases])
    have hpos0 : s.scr.pos = 0 := (hkey (by simp [hp, tagPhases]) hzero).2 hne
    refine .of_blkLoad ht (fun _ => ?_) fun h0 => ?_
    · rw [hc, hpos, hpos0, hd]
      exact ⟨rfl, hlen⟩
    · rw [hc] at h0
      exact absurd h0 (by decide)
  | erased ht => exact .of_none (by simp [ht])

end Sys2Proof.Machine
end

section
/-! PROOFS. The core's step keeps the clauses on the results a command holds to its end (spec 10_state.md R29, R37, R41,
45_aead.md R198, R203, R206), and with them the invariant of the machine. -/

namespace Sys2Proof.Machine

/-- Which phases write SUBKEY and CNONCE, LENBLK, CTAG, TAG and DIFF (R143, R178, R198 to R200, R214). -/
theorem PhaseEffect.results_frame {s t : State} (h : PhaseEffect s t) :
    (¬ s.inPhase [Phase.hcOut, Phase.wipe] → t.scr.subkey = s.scr.subkey ∧ t.scr.cnonce = s.scr.cnonce) ∧
    (¬ s.inPhase [Phase.macLen, Phase.wipe] → t.scr.lenblk = s.scr.lenblk) ∧
    (¬ s.inPhase [Phase.macFinal, Phase.wipe] → t.scr.ctag = s.scr.ctag) ∧
    (s.phase ≠ Phase.tagOut → t.tag = s.tag) ∧
    (t.scr.diff = 0 ∨ t.phase = Phase.failErase ∨ s.phase ≠ Phase.wipe ∧ t.scr.diff = s.scr.diff) := by
  have wrote {p : BitVec 5} {ps : List (BitVec 5)} {P : Prop} (hp : s.phase = p) (hm : p ∈ ps)
      (hn : ¬ s.inPhase ps) : P := hn.elim (by rwa [State.inPhase, hp])
  have kept {p : BitVec 5} {u : State} (hp : s.phase = p) (hne : p ≠ Phase.wipe) (hd : u.scr.diff = s.scr.diff) :
      u.scr.diff = 0 ∨ u.phase = Phase.failErase ∨ s.phase ≠ Phase.wipe ∧ u.scr.diff = s.scr.diff :=
    .inr (.inr ⟨fun hw => hne (hp.symm.trans hw), hd⟩)
  cases h
  case hcOut h _ _ _ =>
    exact ⟨wrote h (by decide), fun _ => rfl, fun _ => rfl, fun _ => rfl, kept h (by decide) rfl⟩
  case macLen h _ _ _ _ =>
    exact ⟨fun _ => ⟨rfl, rfl⟩, wrote h (by decide), fun _ => rfl, fun _ => rfl, kept h (by decide) rfl⟩
  case macFinal h _ _ _ _ _ =>
    exact ⟨fun _ => ⟨rfl, rfl⟩, fun _ => rfl, wrote h (by decide), fun _ => rfl, kept h (by decide) rfl⟩
  case tagOut h => exact ⟨fun _ => ⟨rfl, rfl⟩, fun _ => rfl, fun _ => rfl, absurd h, kept h (by decide) rfl⟩
  case tagEqual | tagEqualEmpty =>
    exact ⟨fun _ => ⟨rfl, rfl⟩, fun _ => rfl, fun _ => rfl, fun _ => rfl, .inl rfl⟩
  case tagDiffer => exact ⟨fun _ => ⟨rfl, rfl⟩, fun _ => rfl, fun _ => rfl, fun _ => rfl, .inr (.inl rfl)⟩
  case wipe h => exact ⟨wrote h (by decide), wrote h (by decide), wrote h (by decide), fun _ => rfl, .inl rfl⟩
  case hcRound h | blkRound h =>
    rw [roundPhase_record]
    exact ⟨fun _ => ⟨rfl, rfl⟩, fun _ => rfl, fun _ => rfl, fun _ => rfl, kept h (by decide) rfl⟩
  case xor h =>
    rw [xorNext_record]
    exact ⟨fun _ => ⟨rfl, rfl⟩, fun _ => rfl, fun _ => rfl, fun _ => rfl, kept h (by decide) rfl⟩
  all_goals
    exact ⟨fun _ => ⟨rfl, rfl⟩, fun _ => rfl, fun _ => rfl, fun _ => rfl, kept ‹s.phase = _› (by decide) rfl⟩

section
variable {s t : State} (h : PhaseEffect s t) (hs : s.Inv)
include h hs

/-- In DECRYPT a data block stays current only behind equal tags, and becomes so only at TAG_CMP (R206). -/
theorem PhaseEffect.authenticated : t.Authenticated := by
  obtain ⟨-, hxor, htag, -⟩ := hs.position
  obtain ⟨ho, -⟩ := h.descriptor_eq
  obtain ⟨-, -, hctag, hsupplied, -⟩ := h.results_frame
  have tags (hp : ¬ s.inPhase [Phase.macFinal, Phase.tagOut, Phase.wipe]) (he : s.scr.ctag = s.tag) :
      t.scr.ctag = t.tag := by
    have hc : ¬ s.inPhase [Phase.macFinal, Phase.wipe] := fun hin => hp (by
      rcases List.mem_pair.1 hin with hq | hq <;> simp [hq])
    rwa [hctag hc, hsupplied fun hq => hp (by simp [hq])]
  intro hdec hne
  rw [ho] at hdec
  have henc : s.opc ≠ opcEncrypt := by rw [hdec]; decide
  cases h.counter hs with
  | kept hp _ _ _ hc =>
    rw [hc] at hne
    refine tags (fun hin => ?_) (hs.authentic hdec hne)
    exact hne (htag ((by decide : ∀ p ∈ [Phase.macFinal, Phase.tagOut, Phase.wipe],
      p ∉ [Phase.hcOut, Phase.xor, Phase.wipe] → p ∈ tagPhases) _ hin hp))
  | first _ _ _ _ h0 => exact absurd (h0 (.inl henc)) hne
  | more hp | finished hp =>
    exact tags (not_inPhase_of_phase hp (by decide)) (hs.authentic hdec (hxor hp))
  | last _ _ he => exact absurd he henc
  | verified hp _ he => exact tags (not_inPhase_of_phase hp (by decide)) he
  | erased _ hc => exact absurd hc hne

/-- LENBLK and CTAG are zero until MAC_LEN and MAC_FINAL write them (R41, R198). -/
theorem PhaseEffect.blank_staged :
    (t.inPhase beforeLenPhases → t.scr.lenblk = zeroBytes 16 ∧ t.scr.ctag = zeroBytes 16) ∧
    (t.inPhase (Phase.xor :: blockPhases) → t.opc = opcEncrypt ∨ t.scr.ctr = 0 →
      t.scr.lenblk = zeroBytes 16 ∧ t.scr.ctag = zeroBytes 16) := by
  obtain ⟨-, hblank, hblock, -, -⟩ := hs.results
  obtain ⟨ho, -⟩ := h.descriptor_eq
  obtain ⟨-, hlen, hctag, -, -⟩ := h.results_frame
  have keep (hl : ¬ s.inPhase [Phase.macLen, Phase.wipe] ∧ ¬ s.inPhase [Phase.macFinal, Phase.wipe])
      (hz : s.scr.lenblk = zeroBytes 16 ∧ s.scr.ctag = zeroBytes 16) :
      t.scr.lenblk = zeroBytes 16 ∧ t.scr.ctag = zeroBytes 16 := by rwa [hlen hl.1, hctag hl.2]
  have away {p : BitVec 5} {ps : List (BitVec 5)} {P : Prop} (hp : t.phase = p) (hn : p ∉ ps)
      (hin : t.inPhase ps) : P := absurd hin (not_inPhase_of_phase hp hn)
  cases h.counter hs with
  | kept hp hcmp hotk hxor hc =>
    refine ⟨fun ht => keep ?_ ?_, fun ht hor => keep ?_ ?_⟩
    · exact h.graph (R := fun p q => q ∈ beforeLenPhases →
        p ∉ [Phase.macLen, Phase.wipe] ∧ p ∉ [Phase.macFinal, Phase.wipe]) (by decide) ht
    · rcases h.graph
        (R := fun p q => q ∈ beforeLenPhases → q = Phase.otk ∧ p = Phase.blkOut ∨ p ∈ beforeLenPhases)
        (by decide) ht with ⟨hq, hp⟩ | hp
      · exact hblock (by simp [hp, blockPhases]) (.inr (hotk hq))
      · exact hblank hp
    · exact h.graph (R := fun p q => q ∈ Phase.xor :: blockPhases →
        p ∉ [Phase.macLen, Phase.wipe] ∧ p ∉ [Phase.macFinal, Phase.wipe]) (by decide) ht
    · rw [ho, hc] at hor
      exact hblock ((h.back_of_kept hp hcmp).1 ht) hor
  | first hp =>
    have hz := keep (by rw [State.inPhase, State.inPhase, hp]; decide) (hblank (by rw [State.inPhase, hp]; decide))
    exact ⟨fun _ => hz, fun _ _ => hz⟩
  | more hp ht _ _ _ hne =>
    refine ⟨away ht (by decide), fun _ hor => keep (by rw [State.inPhase, State.inPhase, hp]; decide) ?_⟩
    exact hblock (by simp [hp]) (.inl (ho.symm.trans (hor.resolve_right hne)))
  | last hp ht he =>
    have hz := keep (by rw [State.inPhase, State.inPhase, hp]; decide) (hblock (by simp [hp]) (.inl he))
    exact ⟨fun _ => hz, fun _ _ => hz⟩
  | finished _ ht | erased ht => exact ⟨away ht (by decide), away ht (by decide)⟩
  | verified hp ht _ _ hc =>
    refine ⟨away ht (by decide), fun _ hor => ?_⟩
    rw [ho, hs.decrypt_of_tagCmp hp, hc] at hor
    exact absurd hor (by decide)

/-- A step of the core keeps the clauses on the results. -/
theorem PhaseEffect.resultsStaged : t.ResultsStaged := by
  obtain ⟨hsub, hblank, -, -, hdiff⟩ := hs.results
  obtain ⟨hsubkey, -, hctag, -, hd⟩ := h.results_frame
  obtain ⟨hbefore, hblock⟩ := h.blank_staged hs
  refine ⟨fun ht => ?_, hbefore, hblock, fun ht => ?_, fun hn => ?_⟩
  · obtain ⟨hearly, hkeep⟩ := h.graph
      (R := fun p q => q ∈ earlyPhases → p ∈ earlyPhases ∧ p ∉ [Phase.hcOut, Phase.wipe]) (by decide) ht
    obtain ⟨hk, hc⟩ := hsubkey hkeep
    rw [hk, hc]
    exact hsub hearly
  · have hp : s.phase = Phase.macLen :=
      h.graph (R := fun p q => q = Phase.macFinal → p = Phase.macLen) (by decide) ht
    rw [hctag (not_inPhase_of_phase hp (by decide))]
    exact (hblank (by rw [State.inPhase, hp]; decide)).2
  · rcases hd with h0 | hfail | ⟨hw, he⟩
    · exact absurd h0 hn
    · simp [hfail]
    · rw [he] at hn
      have hp : s.phase = Phase.failErase := (List.mem_pair.1 (hdiff hn)).resolve_right hw
      exact h.graph (R := fun p q => p = Phase.failErase → q ∈ [Phase.failErase, Phase.wipe]) (by decide) hp

/-- A step of the busy core keeps the invariant. -/
theorem PhaseEffect.inv (hb : s.status.busy = true) : t.Inv where
  buffers := h.buffersSound hs
  phaseCode := h.phaseSound hs hb
  statusWord := h.statusSound hs hb
  macRange := h.macSound hs
  erased := fun ht => (h.idle_cases ht).elim (fun he => by rw [he] at ht ⊢; exact hs.erased ht) id
  cipher := h.cipherSound hs
  macStage := h.macStaged hs
  descriptor := h.descriptorSound hs
  position := h.positionSound hs
  authentic := h.authenticated hs
  results := h.resultsStaged hs

end

/-- Settles O46: the core's turn by `PhaseEffect.inv`, clause by clause, and the host's move by `MoveEffect.inv`. -/
theorem invariantKept : Obligations.InvariantKept := by
  intro s t hs h
  rcases step_cases h with ⟨u, hu, hturn⟩ | ⟨m, rest, -, hm⟩
  · have hui : u.Inv := by
      rcases hu with ⟨rfl, -⟩ | ⟨rest, -, rfl⟩
      · exact hs
      · exact hs.with_host rest s.hostData
    rcases hturn with ⟨-, rfl⟩ | ⟨hb, i, hd, hx⟩
    · exact hui
    · exact (exec_phase_cases hd hx).inv hui hb
  · exact hm.inv (hs.with_host rest s.hostData)

end Sys2Proof.Machine
end

section
/-! PROOFS. XChaCha20 (spec 43_xchacha20.md R150 to R155) and TAG_OUT (45_aead.md R199): the nonce's parts, the
keystream byte by byte, and the operations OTK, XOR and TAG_OUT. -/

namespace Sys2Proof.Machine

@[simp] theorem getElem_noncePrefix (xn : Vector Byte 24) (i : Nat) (h : i < 16) : (noncePrefix xn)[i] = xn[i] := by
  simp [noncePrefix]

@[simp] theorem getElem_firstHalf (ks : Vector Byte 64) (i : Nat) (h : i < 32) : (firstHalf ks)[i] = ks[i] := by
  simp [firstHalf]

/-- Settles O10: each array byte by byte, and the words of the initial state as the words of the ChaCha20 nonce. -/
theorem nonceAndPolyKey : Obligations.NonceAndPolyKey :=
  ⟨fun _ xn => ⟨fun i => getElem_noncePrefix xn i i.isLt, chachaNonce_zeros xn, chachaNonce_suffix xn,
    fun i => getElem_firstHalf _ i i.isLt⟩, fun _ _ _ => ⟨(by decide : le32 0 0 0 0 = 0), rfl, rfl⟩⟩

/-- Settles O22: OTK and TAG_OUT are the records R154 and R199 write, OTK the first half of KS byte by byte. -/
theorem otkAndTagOut : Obligations.OtkAndTagOut :=
  ⟨fun _ => ⟨_, rfl, fun i => getElem_firstHalf _ i i.isLt, rfl⟩, fun _ => rfl⟩

/-- Byte t of keystream block j is byte t of the block with counter 1 + j (R126, R152). -/
theorem getElem?_keystream (sk : Vector Byte 32) (cn : Vector Byte 12) {n j : Nat} (hj : j < n) (t : Fin 64) :
    (keystream sk cn n)[64 * j + t.val]? = some (chacha20Block sk (BitVec.ofNat 32 (1 + j)) cn)[t] := by
  have hblock := congrArg (fun l => l[t.val]?) (keystream_block sk cn hj)
  simpa [List.getElem?_take, List.getElem?_drop] using hblock

/-- Settles O9: the length by `length_xchacha20Xor`, each byte by the keystream's (`getElem?_keystream`). -/
theorem xChaCha20XorFunction : Obligations.XChaCha20XorFunction := by
  refine fun key xn data _ => ⟨length_xchacha20Xor key xn data, fun j t h => ?_⟩
  have hj : j < (data.length + (chachaBlockSize - 1)) / chachaBlockSize := by
    rw [chachaBlockSize]
    omega
  rw [xchacha20Xor, xorBytes]
  simp [List.getD_eq_getElem?_getD, List.getElem?_zipWith, getElem?_keystream _ _ hj, h]

/-- The bytes of an XOR step's chunk are XORed with KS, one by one (R155). -/
theorem read_xorBody_inside {s : State} (hwf : s.dbuf.wf) {k : Nat} (hk : k < 64) (hn : k < xorLen s) :
    (xorBody s).dbuf.read (s.scr.pos.toNat + k) = s.dbuf.read (s.scr.pos.toNat + k) ^^^ s.scr.ks[k] := by
  rw [← length_xorChunk] at hn
  have hread := Memory.read_writeBytes_inside _ hwf s.scr.pos.toNat hn
  refine hread.trans ?_
  simp [xorBytes]

/-- The bytes outside an XOR step's chunk stay (R67, R155). -/
theorem read_xorBody_outside {s : State} {a : Nat} (ha : a < s.scr.pos.toNat ∨ s.scr.pos.toNat + xorLen s ≤ a) :
    (xorBody s).dbuf.read a = s.dbuf.read a :=
  Memory.read_writeBytes_outside _ _ (by rwa [length_xorChunk])

/-- Settles O23: the chunk by the laws of a buffer, the transfer by `xorNext_cases`, and the entry by
`State.Inv.xor_entry`. -/
theorem xorChunk : Obligations.XorChunk := by
  refine ⟨fun s hwf hlt hcap => ?_, fun s hs hp => ?_⟩
  · have hpos := toNat_xorBody_pos hlt
    have hend : s.scr.pos.toNat + min 64 (s.dlen.toNat - s.scr.pos.toNat) =
        min (s.scr.pos.toNat + 64) s.dlen.toNat := by omega
    obtain ⟨c, p, he, more, last, finished⟩ := xorNext_cases (xorBody s)
    have hrun : exec .xor s = .next _ := execXor_eq ((add_chunkLen_le (Nat.le_of_lt hlt)).trans hcap)
    rw [he] at hrun
    exact ⟨_, hrun, fun k hk => read_xorBody_inside hwf k.isLt hk, fun a ha => read_xorBody_outside ha,
      hpos.trans hend.symm, more, fun hd ho => last hd.ge ho, fun hd ho => finished hd.ge ho, rfl⟩
  · obtain ⟨h0, hpos, hlt, hmax⟩ := hs.xor_entry hp
    exact ⟨Nat.zero_lt_of_lt hlt, hpos, hlt, fun _ => by omega⟩

end Sys2Proof.Machine
end

section
/-! PROOFS. Poly1305 (spec 44_poly1305.md R170 to R178): the clamped key, the blocks of a message, the accumulator and
the tag, and the operations MAC_INIT, MacAbsorb16 and MAC_FINAL. -/

namespace Sys2Proof.Machine

/-- `LEbytes` writes back the bytes that `LEint` read (R10). -/
theorem toList_leBytes_leInt (l : List Byte) : (leBytes l.length (leInt l)).toList = l := by
  induction l with
  | nil => rfl
  | cons b bs ih =>
    have hdigit : BitVec.ofNat 8 (b.toNat + 256 * leInt bs) = b := by
      apply BitVec.eq_of_toNat_eq
      rw [BitVec.toNat_ofNat, Nat.add_mul_mod_self_left, Nat.mod_eq_of_lt b.isLt]
    have hrest : (b.toNat + 256 * leInt bs) / 256 = leInt bs := by
      have := b.isLt
      omega
    rw [List.length_cons, leInt, toList_leBytes_succ, hdigit, hrest, ih]

/-- A bit of the multiplier is the key's bit where the mask has one (R171). -/
theorem testBit_macR (otk : Vector Byte 32) (k : Nat) :
    (macR otk).testBit k = ((leInt (otk.toList.take 16)).testBit k && clampMask.testBit k) :=
  Nat.testBit_and _ _ k

/-- The multiplier has 124 bits (R171, R173). -/
theorem macR_lt (otk : Vector Byte 32) : macR otk < 2 ^ 124 :=
  Nat.and_lt_two_pow _ (by decide : clampMask < 2 ^ 124)

/-- Settles O11: each bit by `testBit_macR`, where the mask is clear at the 22 listed places and set at the others. -/
theorem keySplitAndClamp : Obligations.KeySplitAndClamp := by
  refine fun otk => ⟨rfl, rfl, fun k hk => ?_, fun k hlt hk => ?_, macR_lt otk⟩
  · have hclear : clampMask.testBit k = false := by
      revert k
      decide
    rw [testBit_macR, hclear, Bool.and_false]
  · have hset : clampMask.testBit k = true := by
      revert k
      decide
    rw [testBit_macR, hset, Bool.and_true]

/-- The first k blocks of a message joined are its first 16 k bytes (R172). -/
theorem flatMap_messageBlock (msg : List Byte) (k : Nat) :
    (List.range k).flatMap (messageBlock msg) = msg.take (blockSize * k) := by
  induction k with
  | zero => rfl
  | succ k ih =>
    rw [List.range_succ, List.flatMap_append, ih, List.flatMap_singleton, messageBlock, Nat.mul_succ, List.take_add]

theorem length_messageBlock (msg : List Byte) (j : Nat) :
    (messageBlock msg j).length = min 16 (msg.length - 16 * j) := by
  rw [messageBlock, List.length_take, List.length_drop, blockSize]

/-- A full block lies between the 0x01 above its 16 bytes and twice that (R172). -/
theorem blockVal_full_bounds {b : List Byte} (hb : b.length = 16) : 2 ^ 128 ≤ blockVal b ∧ blockVal b < 2 ^ 129 := by
  have hlt := leInt_lt b
  rw [hb] at hlt
  rw [blockVal, hb]
  omega

/-- Settles O12: the blocks joined by `flatMap_messageBlock`, their lengths by `length_messageBlock`. -/
theorem polyBlockValue : Obligations.PolyBlockValue := by
  refine ⟨fun msg => ?_, fun msg j hj => ?_, fun _ _ _ => rfl, fun _ => blockVal_full_bounds, by decide⟩
  · rw [flatMap_messageBlock]
    refine List.take_of_length_le ?_
    rw [blockCount, blockSize]
    omega
  · rw [blockCount, blockSize] at hj ⊢
    rw [length_messageBlock]
    omega

/-- The sum and the product of one accumulation fit in 255 bits (R173, R179). -/
theorem absorb_product_lt {acc r v : Nat} (ha : acc < 2 ^ 130) (hv : v < 2 ^ 129) (hr : r < 2 ^ 124) :
    (acc + v) * r < 2 ^ 255 := by
  calc (acc + v) * r
      _ ≤ (2 ^ 130 + 2 ^ 129) * 2 ^ 124 := Nat.mul_le_mul (by omega) hr.le
      _ < 2 ^ 255 := by norm_num

/-- The tag as a number (R174). -/
theorem leInt_macTag (acc s : Nat) : leInt (macTag acc s).toList = (acc + s) % 2 ^ 128 := by
  rw [macTag, leInt_leBytes]
  exact Nat.mod_mod _ (2 ^ 128)

/-- Settles O13: the residue by `absorb_lt`, the product by `absorb_product_lt`, the tag by `leInt_macTag`. -/
theorem absorbAndTag : Obligations.AbsorbAndTag :=
  ⟨fun acc r v => ⟨rfl, absorb_lt acc r v⟩, fun _ _ _ => absorb_product_lt, by decide, leInt_macTag, by decide⟩

/-- The last block of a message, full or short, is absorbed as one (R172, R175). -/
theorem macFrom_lastBlock (r acc : Nat) {b : List Byte} (hpos : 1 ≤ b.length) (hle : b.length ≤ 16) :
    macFrom r acc b = absorb acc r (blockVal b) := by
  have hcount : blockCount b.length = 1 := by
    rw [blockCount, blockSize]
    omega
  have hblock : messageBlock b 0 = b := List.take_of_length_le hle
  rw [macFrom, hcount]
  exact congrArg (fun b => absorb acc r (blockVal b)) hblock

/-- With the multiplier 0 the accumulator stays 0 (R175). -/
theorem macAcc_zero (msg : List Byte) : macAcc 0 msg = 0 :=
  List.foldl_fixed' (fun _ => Nat.zero_mod polyP) _

/-- The tag of the accumulator 0 is the second half of the key (R170, R174, R175). -/
theorem toList_macTag_macS (otk : Vector Byte 32) : (macTag 0 (macS otk)).toList = otk.toList.drop 16 := by
  have hl : (otk.toList.drop 16).length = 16 := by simp
  have hs := toList_leBytes_leInt (otk.toList.drop 16)
  rw [hl] at hs
  rw [macTag, Nat.zero_add, Nat.mod_eq_of_lt (macS_lt otk)]
  exact hs

/-- Settles O14: one more block by `macFrom_append` and `macFrom_lastBlock`, and an accumulator that stays 0 by
`toList_macTag_macS`. -/
theorem poly1305Function : Obligations.Poly1305Function := by
  refine ⟨fun _ _ => rfl, fun _ => rfl, fun r msg b hm hpos hle => ?_, toList_macTag_macS, fun otk msg hr => ?_,
    by decide⟩
  · have hk : msg.length = 16 * (msg.length / 16) := by omega
    rw [macAcc_eq_macFrom, macAcc_eq_macFrom, macFrom_append _ _ hk, macFrom_lastBlock _ _ hpos hle]
  · rw [poly1305Mac, hr, macAcc_zero, toList_macTag_macS]

/-- Settles O24: MAC_INIT is the record R176 writes. -/
theorem macInit : Obligations.MacInit := fun _ => rfl

/-- ACC after MacAbsorb16, as R177 writes it: a full block's value is its number and 2^128 (`blockVal_full`). -/
theorem absorbed_eq (c : Scratch) (blk : Vector Byte 16) :
    c.absorbed blk = (c.acc + (leInt blk.toList + 2 ^ 128)) * c.r % (2 ^ 130 - 5) := by
  rw [Scratch.absorbed, blockVal_full]
  rfl

/-- Settles O25: MacAbsorb16 writes ACC alone, with the value of `absorbed_eq`. -/
theorem macAbsorb16 : Obligations.MacAbsorb16 := by
  intro s blk
  rw [exec, execMacAbsorb16, absorbed_eq]

/-- Settles O29: MAC_FINAL is the record R178 writes, its tag by `leInt_macTag`. -/
theorem macFinal : Obligations.MacFinal := fun _ => ⟨_, rfl, leInt_macTag _ _, rfl⟩

end Sys2Proof.Machine
end

section
/-! PROOFS. The MAC's input and its phases (spec 45_aead.md R194, R196 to R198): the framing, the zero-padded block of
a segment step, and how often a segment's phase executes. -/

namespace Sys2Proof.Machine

/-- Settles O15: a padded segment is whole blocks (`length_pad16`), and so is the input with its length block. -/
theorem macFraming : Obligations.MacFraming := by
  refine ⟨fun x => ⟨rfl, ?_, fun hx => ?_, ?_⟩, fun aad ct _ _ => ⟨?_, ?_⟩⟩
  · rw [length_pad16, Nat.mul_mod_right]
  · rw [pad16, hx]
    exact List.append_nil x
  · rw [length_pad16, blockCount, blockSize]
    omega
  · rw [macInput, lengthBlock, ← List.append_assoc]
  · have hlen : (macInput aad ct).length = 16 * blockCount aad.length + 16 * blockCount ct.length + 16 := by
      rw [macInput, List.length_append, List.length_append, length_pad16, length_pad16]
      simp [lengthBlock]
    omega

/-- The block of n bytes of a buffer, zero-padded (R196, R197). -/
theorem padBlock_readBytes (m : Memory) (off n : Nat) :
    padBlock (m.readBytes off n) = Vector.ofFn fun k => if k.val < n then m.read (off + k.val) else 0 := by
  refine Vector.ext fun k hk => ?_
  rw [padBlock, Vector.getElem_ofFn, Vector.getElem_ofFn]
  split
  · next hin =>
    rw [← Memory.length_readBytes m off n] at hin
    rw [List.getD_eq_getElem _ _ hin, Memory.getElem_readBytes]
  · next hout =>
    rw [← Memory.length_readBytes m off n] at hout
    exact List.getD_eq_default _ _ (Nat.not_lt.1 hout)

section
variable {m : Memory} {len : BitVec 64} {after : BitVec 5} {s : State}

/-- Every segment step writes ACC, MPOS and PHASE only (R196, R197). -/
theorem macSegStep_frame : macSegStep m len after s = { s with
    scr := { s.scr with
      acc := (macSegStep m len after s).scr.acc, mpos := (macSegStep m len after s).scr.mpos }
    phase := (macSegStep m len after s).phase } := by
  rw [macSegStep]
  dsimp only
  split <;> rfl

/-- Every segment step absorbs its zero-padded block, with the value R177 gives (R196, R197). -/
theorem macSegStep_acc : (macSegStep m len after s).scr.acc = absorb s.scr.acc s.scr.r
    (leInt (padBlock (m.readBytes s.scr.mpos.toNat (chunkLen blockSize len.toNat s.scr.mpos.toNat))).toList +
      2 ^ 128) := by
  have hacc : (macSegStep m len after s).scr.acc = s.scr.absorbed
      (padBlock (m.readBytes s.scr.mpos.toNat (chunkLen blockSize len.toNat s.scr.mpos.toNat))) := by
    rw [macSegStep]
    dsimp only
    split <;> rfl
  rw [hacc, Scratch.absorbed, blockVal_full]
  rfl

/-- MPOS advanced by a segment step's block, as a number: it does not wrap. -/
theorem toNat_mpos_add (h : s.scr.mpos.toNat + chunkLen blockSize len.toNat s.scr.mpos.toNat ≤ len.toNat) :
    (s.scr.mpos + BitVec.ofNat 64 (chunkLen blockSize len.toNat s.scr.mpos.toNat)).toNat =
      s.scr.mpos.toNat + chunkLen blockSize len.toNat s.scr.mpos.toNat := by
  have hlen := len.isLt
  rw [BitVec.toNat_add, BitVec.toNat_ofNat]
  omega

/-- A segment step short of the end moves on in its phase (R196, R197). -/
theorem macSegStep_more (h : s.scr.mpos.toNat + chunkLen blockSize len.toNat s.scr.mpos.toNat < len.toNat) :
    (macSegStep m len after s).scr.mpos.toNat =
        s.scr.mpos.toNat + chunkLen blockSize len.toNat s.scr.mpos.toNat ∧
      (macSegStep m len after s).phase = s.phase := by
  have hadd := toNat_mpos_add h.le
  rw [macSegStep]
  dsimp only
  rw [if_neg fun he => h.ne (hadd.symm.trans (congrArg BitVec.toNat he))]
  exact ⟨hadd, rfl⟩

/-- A segment step that reaches the end clears MPOS and goes to the next phase (R196, R197). -/
theorem macSegStep_last (h : s.scr.mpos.toNat + chunkLen blockSize len.toNat s.scr.mpos.toNat = len.toNat) :
    (macSegStep m len after s).scr.mpos = 0 ∧ (macSegStep m len after s).phase = after := by
  rw [macSegStep]
  dsimp only
  rw [if_pos (BitVec.eq_of_toNat_eq ((toNat_mpos_add h.le).trans h))]
  exact ⟨rfl, rfl⟩

/-- A MAC phase executes once for each block of its segment: it is still the phase before its last step, and left after
it (R196, R197). -/
theorem macSegment_executions
    (hstep : ∀ c : Scratch, c.mpos.toNat < len.toNat →
      step { s with scr := c } = .next (macSegStep m len after { s with scr := c }))
    (hm : s.scr.mpos = 0) (hlen : 0 < len.toNat) :
    (∀ k, k < (len.toNat + 15) / 16 → ∃ t, runSteps k s = .next t ∧ t.phase = s.phase) ∧
    ∃ t, runSteps ((len.toNat + 15) / 16) s = .next t ∧ t.scr.mpos = 0 ∧ t.phase = after :=
  ⟨fun _ hk => ⟨_, runSteps_macBlocks hstep hm hk, rfl⟩,
    _, runSteps_macSegment hstep hm fun h0 => absurd h0 hlen.ne', rfl, rfl⟩

end

section
variable {s : State} (h : s.CoreActs)
include h

/-- With AAD left in its buffer, the core's turn in MAC_AAD is a segment step (R196). -/
theorem State.CoreActs.step_macAad (hp : s.phase = Phase.macAad) (hlt : s.scr.mpos.toNat < s.alen.toNat)
    (hcap : s.alen.toNat ≤ s.params.abufCap) :
    step s = .next (macSegStep s.abuf s.alen (if 0 < s.dlen.toNat then Phase.macData else Phase.macLen) s) :=
  (h.step_of_code (i := .macAad) hp rfl).trans (exec_macAad_seg ((add_chunkLen_le hlt.le).trans hcap))

/-- With data left in its buffer, the core's turn in MAC_DATA is a segment step (R197). -/
theorem State.CoreActs.step_macData (hp : s.phase = Phase.macData) (hlt : s.scr.mpos.toNat < s.dlen.toNat)
    (hcap : s.dlen.toNat ≤ s.params.dbufCap) : step s = .next (macSegStep s.dbuf s.dlen Phase.macLen s) :=
  (h.step_of_code (i := .macData) hp rfl).trans (exec_macData_seg ((add_chunkLen_le hlt.le).trans hcap))

end

/-- Settles O26: MAC_AAD as a segment step over the AAD, its executions by `macSegment_executions`. -/
theorem macAad : Obligations.MacAad := by
  refine ⟨fun s hlt hcap => ?_, fun s hb hs hp hm hlen hcap => ?_, fun s h hp => ?_⟩
  · intro n blk
    have hblk : blk = padBlock (s.abuf.readBytes s.scr.mpos.toNat n) := (padBlock_readBytes _ _ _).symm
    rw [hblk]
    exact ⟨_, exec_macAad_seg ((add_chunkLen_le hlt.le).trans hcap), macSegStep_acc, macSegStep_more,
      macSegStep_last, macSegStep_frame⟩
  · rw [← hp]
    exact macSegment_executions (fun c hc =>
      State.CoreActs.step_macAad (s := { s with scr := c }) ⟨hb, .inl hs⟩ hp hc hcap) hm hlen
  · obtain ⟨-, -, hlt, -⟩ := h.macStage
    exact ⟨Nat.zero_lt_of_lt (hlt hp), hlt hp⟩

/-- Settles O27: MAC_DATA as a segment step over the data, its executions by `macSegment_executions`. -/
theorem macData : Obligations.MacData := by
  refine ⟨fun s hlt hcap => ?_, fun s hb hs hp hm hlen hcap => ?_, fun s h hp => ?_⟩
  · intro n blk
    have hblk : blk = padBlock (s.dbuf.readBytes s.scr.mpos.toNat n) := (padBlock_readBytes _ _ _).symm
    rw [hblk]
    exact ⟨_, exec_macData_seg ((add_chunkLen_le hlt.le).trans hcap), macSegStep_acc, macSegStep_more,
      macSegStep_last, macSegStep_frame⟩
  · rw [← hp]
    exact macSegment_executions (fun c hc =>
      State.CoreActs.step_macData (s := { s with scr := c }) ⟨hb, .inl hs⟩ hp hc hcap) hm hlen
  · obtain ⟨-, -, -, hlt, -⟩ := h.macStage
    exact ⟨Nat.zero_lt_of_lt (hlt hp), hlt hp⟩

/-- The bytes of the length block: those of ALEN, then those of DLEN (R198). -/
theorem getElem_lenBlock (s : State) (i : Fin 8) :
    (lenBlock s)[i.val] = (leBytes 8 s.alen.toNat)[i] ∧ (lenBlock s)[8 + i.val] = (leBytes 8 s.dlen.toNat)[i] := by
  have hblock (k : Nat) (hk : k < 16) : some (lenBlock s)[k] = (lengthBlock s.alen.toNat s.dlen.toNat)[k]? := by
    rw [← toList_lenBlock]
    simp [hk]
  constructor <;> refine Option.some.inj ((hblock _ (by omega)).trans ?_)
  · simp [lengthBlock, List.getElem?_append]
  · simp [lengthBlock, List.getElem?_append]

/-- Settles O28: MAC_LEN is the record R198 writes, the length block byte by byte. -/
theorem macLen : Obligations.MacLen := by
  refine fun s => ⟨_, rfl, fun i => ?_, ?_, rfl⟩
  · obtain ⟨ha, hd⟩ := getElem_lenBlock s i
    exact ⟨(congrArg BitVec.toNat ha).trans (toNat_getElem_leBytes 8 _ _ i.isLt),
      (congrArg BitVec.toNat hd).trans (toNat_getElem_leBytes 8 _ _ i.isLt)⟩
  · exact congrArg (absorb s.scr.acc s.scr.r) (blockVal_full (lenBlock s))

end Sys2Proof.Machine
end

section
/-! PROOFS. The ends of a command (spec 45_aead.md R190, R191, R200 to R202, R214): START, CHECK, TAG_CMP, FAIL_ERASE,
WIPE and IDLE. -/

namespace Sys2Proof.Machine

/-- DIFF as a fold over the sixteen indices (R200). -/
theorem tagDiff_eq_foldl (a b : Vector Byte 16) :
    tagDiff a b = (List.finRange 16).foldl (fun d i => d ||| (a[i] ^^^ b[i])) 0 := by
  have hpairs : List.zipWith (· ^^^ ·) a.toList b.toList = (List.finRange 16).map fun i => a[i] ^^^ b[i] := by
    refine List.ext_getElem (by simp) fun i h1 h2 => ?_
    simp
  rw [tagDiff, hpairs, List.foldl_map]

/-- Settles O30: equal tags by `exec_tagCmp_equal`, differing ones by `exec_tagCmp_differ`. -/
theorem tagCompare : Obligations.TagCompare := by
  intro s
  have hiff := tagDiff_eq_zero_iff s.scr.ctag s.tag
  by_cases he : s.scr.ctag = s.tag
  · have hzero : tagDiff s.scr.ctag s.tag = 0 := hiff.2 he
    refine ⟨_, exec_tagCmp_equal he, hzero.symm.trans (tagDiff_eq_foldl _ _), iff_of_true rfl he, fun _ hd => ?_,
      fun _ hd => ?_, fun hn => absurd rfl hn⟩
    · rw [if_pos hd, if_pos hd]
    · rw [if_neg (Nat.not_lt.2 hd.le), if_neg (Nat.not_lt.2 hd.le)]
  · have hne : tagDiff s.scr.ctag s.tag ≠ 0 := mt hiff.1 he
    exact ⟨_, exec_tagCmp_differ he, tagDiff_eq_foldl _ _, hiff, fun h0 => absurd h0 hne, fun h0 => absurd h0 hne,
      fun _ => rfl⟩

/-- Settles O31: the zeros written are read below DLEN, and the write reaches nothing above. -/
theorem failErase : Obligations.FailErase := by
  refine fun s hwf hcap => ⟨_, execFailErase_eq hcap, fun a ha => ?_, fun a ha => ?_, rfl⟩
  · have hread := Memory.read_writeBytes_inside (List.replicate s.dlen.toNat 0) hwf 0 (t := a) (by simpa using ha)
    rw [Nat.zero_add, List.getElem_replicate] at hread
    exact hread
  · exact Memory.read_writeBytes_outside _ _ (.inr (by simpa using ha))

/-- The busy core with PHASE = IDLE, a state no run reaches, stays as it is (log entry 7). -/
theorem step_busy_idle {s : State} (hb : s.status.busy = true) (hs : s.script = []) (hp : s.phase = Phase.idle) :
    step s = .next s := step_of_phase (i := .idle) hb hs (by rw [hp]; rfl)

/-- Only WIPE clears BUSY (R214). -/
theorem PhaseEffect.wipe_of_done {s t : State} (h : PhaseEffect s t) (hp : s.phase ≠ Phase.idle)
    (hb : s.status.busy = true) (ht : t.status.busy = false) : s.phase = Phase.wipe := by
  have busy {st : Status} (he : t.status = st) (hst : st.busy = s.status.busy) : False := by
    rw [he, hst, hb] at ht
    cases ht
  rcases h.status_cases with ⟨-, he⟩ | ⟨-, i, -, he⟩ | ⟨-, -, he⟩ | ⟨hi, -⟩
  · exact (busy he rfl).elim
  · exact (busy he rfl).elim
  · exact (busy he rfl).elim
  · exact (h.graph (R := fun p q => q = Phase.idle → p = Phase.idle ∨ p = Phase.wipe) (by decide) hi).resolve_left hp

/-- Settles O32: WIPE is the record R214 writes, and by `PhaseEffect.wipe_of_done` no other phase ends a command. -/
theorem wipeErases : Obligations.WipeErases := by
  refine ⟨fun s => rfl, fun s t hb hs h ht => ?_⟩
  by_cases hp : s.phase = Phase.idle
  · rw [step_busy_idle hb hs hp] at h
    cases h
    rw [hb] at ht
    cases ht
  · exact (step_phase_cases hb hs h).wipe_of_done hp hb ht

/-- Settles O33: the six tests are those of `contractFailure`; on a failure CHECK and WIPE are the two steps. -/
theorem contractChecks : Obligations.ContractChecks := by
  intro s info
  have hinfo : info = (contractFailure s).getD 0 := by
    unfold contractFailure
    simp only [apply_ite (Option.getD · (0 : BitVec 4)), Option.getD_some, Option.getD_none]
    rfl
  rw [hinfo, exec, execCheck]
  cases hc : contractFailure s with
  | none => exact ⟨fun _ => rfl, fun hn => absurd rfl hn, fun hn => absurd rfl hn⟩
  | some i =>
    obtain ⟨hpos, -⟩ := contractFailure_range hc
    refine ⟨fun h0 => ?_, fun _ => rfl, fun _ hp hb hs => ?_⟩
    · rw [show i = 0 from h0] at hpos
      cases hpos
    · exact (runSteps_succ (step_check_violation hb hs hp hc) 1).trans (runSteps_one (step_wipe hb hs rfl))

/-- No write but that of CMD reaches STATUS (R44). -/
theorem regWrite_status {r : HostReg} (hr : r ≠ .cmd) (v : Word) (s : State) :
    (regWrite r v s).status = s.status := by
  cases hb : s.status.busy with
  | true => rw [regWrite_busy r v hb]
  | false => cases r <;> simp [regWrite, hb] at hr ⊢

/-- A host move that makes the idle core busy is START (R202). -/
theorem MoveEffect.start_of_busy {m : HostMove} {s t : State} (h : MoveEffect m s t) (hb : s.status.busy = false)
    (ht : t.status.busy = true) : ∃ v, m = .wr 0 v ∧ t = startCommand v s := by
  have kept {st : Status} {P : Prop} (he : t.status = st) (hst : st.busy = false) : P := by
    rw [he, hst] at ht
    cases ht
  cases h with
  | start v => exact ⟨v, rfl, rfl⟩
  | write off v r _ _ hr => exact kept (regWrite_status hr v s) hb
  | bufWrite sp => cases sp <;> exact kept rfl hb
  | read | bufRead | waited => exact kept rfl hb
  | reset => exact kept rfl rfl

/-- With no host move to come the idle core stays as it is (R202). -/
theorem step_idle {s : State} (hp : s.PhaseNamed) (hb : s.status.busy = false) (hs : s.script = []) :
    step s = .next s := by
  rw [step_nil hs]
  rcases coreFetch_cases s with ⟨-, -, hf⟩ | ⟨hb', -⟩ | ⟨hn, -⟩
  · rw [hf]
    rfl
  · rw [hb] at hb'
    cases hb'
  · exact absurd hp (Nat.not_le.2 hn)

/-- Settles O34: the idle core stays (`step_idle`), and a step to BUSY is START (`MoveEffect.start_of_busy`). -/
theorem idleLeftByStart : Obligations.IdleLeftByStart := by
  refine ⟨fun s => rfl, fun s hp hb hs => ?_, fun s t hb h ht => ?_⟩
  · exact step_idle hp hb hs
  · rcases step_cases h with ⟨u, hu, hturn⟩ | ⟨m, rest, hs, hm⟩
    · have hub : u.status.busy = false := by
        rcases hu with ⟨rfl, -⟩ | ⟨rest, -, rfl⟩ <;> exact hb
      rcases hturn with ⟨-, rfl⟩ | ⟨hb', -⟩
      · rw [hub] at ht
        cases ht
      · rw [hub] at hb'
        cases hb'
    · obtain ⟨v, rfl, rfl⟩ := hm.start_of_busy hb ht
      exact ⟨v, rest, hs, startCommand_idle v (s := { s with script := rest }) hb⟩

/-- The write of CMD while idle is START (R190). -/
theorem writeGives_start {s : State} (hp : s.PhaseNamed) (hb : s.status.busy = false) (v : Word) :
    s.WriteGives 0x00 v { s with
      opc := cmdOpc v, status := { busy := true, done := false, err := 0, errInfo := 0 }, phase := Phase.check } :=
  writeGives_of_regWrite hp .cmd ((if_neg (by simp [hb])).trans (startCommand_idle v hb))

/-- Settles O35: the write of CMD by `writeGives_start`, ignored while busy, and both instructions as START with a word
whose low byte is their opcode. -/
theorem startCommandEffect : Obligations.StartCommand := by
  refine ⟨fun s v hp hb => writeGives_start hp hb v, fun s v hp hb => ?_, fun s r hb => ⟨?_, ?_⟩,
    fun s r hb => ⟨?_, ?_⟩⟩
  · exact writeGives_of_regWrite hp .cmd (regWrite_busy .cmd v hb)
  · rw [exec, execEncrypt, startCommand_idle _ hb, cmdOpc_append]
    rfl
  · rw [exec, execDecrypt, startCommand_idle _ hb, cmdOpc_append]
    rfl
  · rw [exec, execEncrypt, startCommand_busy _ hb]
  · rw [exec, execDecrypt, startCommand_busy _ hb]

end Sys2Proof.Machine
end

section
/-! PROOFS. The transition table (spec 45_aead.md R195): each row with a choice as a lemma about its instruction, and
the table from them. -/

namespace Sys2Proof.Machine

section
variable {after : BitVec 5} {s : State}

/-- Short of the twentieth round a round phase stays (R123, R142). -/
theorem roundPhase_phase_of_lt (h : (roundPhase after s).scr.rnd.toNat < 20) :
    (roundPhase after s).phase = s.phase := by
  rw [roundPhase_record] at h ⊢
  refine if_neg fun he => ?_
  have h20 : (s.scr.rnd + 1).toNat = 20 := congrArg BitVec.toNat he
  exact absurd h (by rw [roundStep_rnd, h20]; decide)

/-- At the twentieth round a round phase is left (R123, R142). -/
theorem roundPhase_phase_of_eq (h : (roundPhase after s).scr.rnd.toNat = 20) : (roundPhase after s).phase = after := by
  rw [roundPhase_record] at h ⊢
  exact if_pos (BitVec.eq_of_toNat_eq h)

end

section
variable {s t : State}

/-- HC_ROUND and BLK_ROUND stay before the twentieth round and are left at it (R123, R142). -/
theorem exec_round_phase {i : Instr} {after : BitVec 5}
    (hi : (i, after) ∈ [(Instr.blkRound, Phase.blkOut), (Instr.hcRound, Phase.hcOut)]) (h : exec i s = .next t) :
    (t.scr.rnd.toNat < 20 → t.phase = s.phase) ∧ (t.scr.rnd.toNat = 20 → t.phase = after) := by
  rw [exec_round hi] at h
  cases h
  exact ⟨roundPhase_phase_of_lt, roundPhase_phase_of_eq⟩

/-- CHECK goes to WIPE on a failing test (R191). -/
theorem exec_check_violation (h : exec .check s = .next t) (hc : contractFailure s ≠ none) : t.phase = Phase.wipe := by
  obtain ⟨i, hi⟩ := Option.ne_none_iff_exists'.1 hc
  rw [exec, execCheck, hi] at h
  cases h
  rfl

/-- CHECK goes to HC_LOAD when the tests pass (R191). -/
theorem exec_check_legal (h : exec .check s = .next t) (hc : contractFailure s = none) : t.phase = Phase.hcLoad := by
  rw [exec, execCheck, hc] at h
  cases h
  rfl

/-- What XOR leaves of CTR, POS and PHASE (R155): the transfer on POS after the step. -/
theorem exec_xor_transfer (h : exec .xor s = .next t) :
    (t.scr.pos.toNat < s.dlen.toNat → t.phase = Phase.blkLoad ∧ t.scr.ctr = s.scr.ctr + 1) ∧
    (t.scr.pos.toNat = s.dlen.toNat → s.opc = opcEncrypt → t.phase = Phase.blkLoad ∧ t.scr.ctr = 0) ∧
    (t.scr.pos.toNat = s.dlen.toNat → s.opc ≠ opcEncrypt → t.phase = Phase.wipe) := by
  obtain ⟨c, p, he, more, last, finished⟩ := xorNext_cases (xorBody s)
  rw [execXor_next h, he]
  exact ⟨fun hlt => (more hlt).symm, fun hd ho => (last hd.ge ho).symm, fun hd ho => (finished hd.ge ho).2⟩

/-- MAC_AAD answers a next state by a segment step (R196). -/
theorem eq_of_exec_macAad (h : exec .macAad s = .next t) :
    t = macSegStep s.abuf s.alen (if 0 < s.dlen.toNat then Phase.macData else Phase.macLen) s :=
  Host.Outcome.next.inj (h.symm.trans (exec_macAad_seg (execMacAad_next h)))

/-- MAC_DATA answers a next state by a segment step (R197). -/
theorem eq_of_exec_macData (h : exec .macData s = .next t) : t = macSegStep s.dbuf s.dlen Phase.macLen s :=
  Host.Outcome.next.inj (h.symm.trans (exec_macData_seg (execMacData_next h)))

/-- What TAG_CMP leaves of CTR, DIFF and PHASE (R200). -/
theorem exec_tagCmp_transfer (h : exec .tagCmp s = .next t) :
    (t.scr.diff = 0 → 0 < s.dlen.toNat → t.phase = Phase.blkLoad ∧ t.scr.ctr = 1) ∧
    (t.scr.diff = 0 → s.dlen.toNat = 0 → t.phase = Phase.wipe) ∧
    (t.scr.diff ≠ 0 → t.phase = Phase.failErase) := by
  obtain ⟨u, hu, -, -, more, empty, differ⟩ := tagCompare s
  obtain rfl : t = u := Host.Outcome.next.inj (h.symm.trans hu)
  refine ⟨fun h0 hd => ?_, fun h0 hd => ?_, fun hn => ?_⟩
  · rw [more h0 hd]
    exact ⟨rfl, rfl⟩
  · rw [empty h0 hd]
  · rw [differ hn]

/-- FAIL_ERASE goes to WIPE (R201). -/
theorem exec_failErase_phase (h : exec .failErase s = .next t) : t.phase = Phase.wipe := by
  rw [exec, execFailErase_eq (execFailErase_next h)] at h
  cases h
  rfl

end

/-- Settles O50: for each phase the step is its instruction, whose row is its lemma or its record. -/
theorem transitionTable : Obligations.TransitionTable := by
  refine ⟨fun s v hb hp => ⟨_, writeGives_start (by rw [State.PhaseNamed, hp]; decide) hb v, rfl⟩,
    fun s t hb hs h => ?_⟩
  have run {i : Instr} {p : BitVec 5} (hp : s.phase = p) (hi : encode i = some (.phase p)) : exec i s = .next t :=
    (State.CoreActs.step_of_code ⟨hb, .inl hs⟩ hp hi).symm.trans h
  have row {i : Instr} {p : BitVec 5} {u : State} (hx : exec i s = .next u) (hi : encode i = some (.phase p))
      (hp : s.phase = p) : t = u := Host.Outcome.next.inj ((run hp hi).symm.trans hx)
  have hcLoad := row (i := .hcLoad) rfl rfl
  have hcRound (hp : s.phase = Phase.hcRound) :=
    exec_round_phase (after := Phase.hcOut) (by decide) (run (i := .hcRound) hp rfl)
  have hcOut := row (i := .hcOut) rfl rfl
  have blkLoad := row (i := .blkLoad) rfl rfl
  have blkRound (hp : s.phase = Phase.blkRound) :=
    exec_round_phase (after := Phase.blkOut) (by decide) (run (i := .blkRound) hp rfl)
  have blkOut := row (i := .blkOut) rfl rfl
  have otk := row (i := .otk) rfl rfl
  have xor (hp : s.phase = Phase.xor) := exec_xor_transfer (run (i := .xor) hp rfl)
  have macInit := row (i := .macInit) rfl rfl
  have macAad (hp : s.phase = Phase.macAad) := eq_of_exec_macAad (run (i := .macAad) hp rfl)
  have macData (hp : s.phase = Phase.macData) := eq_of_exec_macData (run (i := .macData) hp rfl)
  have macLen := row (i := .macLen) rfl rfl
  have macFinal := row (i := .macFinal) rfl rfl
  have tagOut := row (i := .tagOut) rfl rfl
  have tagCmp (hp : s.phase = Phase.tagCmp) := exec_tagCmp_transfer (run (i := .tagCmp) hp rfl)
  have wipe := row (i := .wipe) rfl rfl
  refine ⟨fun hp => exec_check_violation (run hp rfl), fun hp => exec_check_legal (run hp rfl), fun hp => ?_,
    fun hp hr => ?_, fun hp => (hcRound hp).2, fun hp => ?_, fun hp => ?_, fun hp hr => ?_, fun hp => (blkRound hp).2,
    fun hp => ?_, fun hp => ?_, fun hp => (xor hp).1, fun hp => (xor hp).2.1, fun hp hd ho => ?_, fun hp ha => ?_,
    fun hp ha hd => ?_, fun hp ha hd => ?_, fun hp hm => ?_, fun hp hm hd => ?_, fun hp hm hd => ?_, fun hp hm => ?_,
    fun hp hm => ?_, fun hp => ?_, fun hp ho => ?_, fun hp ho => ?_, fun hp => ?_, fun hp => (tagCmp hp).1,
    fun hp => (tagCmp hp).2.1, fun hp => (tagCmp hp).2.2, fun hp => exec_failErase_phase (run hp rfl), fun hp => ?_⟩
  · rw [hcLoad hp]
  · rw [(hcRound hp).1 hr, hp]
  · rw [hcOut hp]
    exact ⟨rfl, rfl⟩
  · rw [blkLoad hp]
  · rw [(blkRound hp).1 hr, hp]
  · rw [blkOut hp]
  · rw [otk hp]
  · exact (xor hp).2.2 hd (by rw [ho]; decide)
  · rw [macInit hp]
    exact if_pos ha
  · rw [macInit hp]
    exact (if_neg (Nat.not_lt.2 ha.le)).trans (if_pos hd)
  · rw [macInit hp]
    exact (if_neg (Nat.not_lt.2 ha.le)).trans (if_neg (Nat.not_lt.2 hd.le))
  · rw [macAad hp, (macSegStep_more hm).2, hp]
  · rw [macAad hp]
    obtain ⟨hz, hnext⟩ := macSegStep_last hm
    exact ⟨hnext.trans (if_pos hd), hz⟩
  · rw [macAad hp]
    obtain ⟨hz, hnext⟩ := macSegStep_last hm
    exact ⟨hnext.trans (if_neg (Nat.not_lt.2 hd.le)), hz⟩
  · rw [macData hp, (macSegStep_more hm).2, hp]
  · rw [macData hp]
    exact (macSegStep_last hm).symm
  · rw [macLen hp]
  · rw [macFinal hp]
    exact if_pos ho
  · rw [macFinal hp]
    exact if_neg (by rw [State.isEncrypt, ho]; decide)
  · rw [tagOut hp]
  · rw [wipe hp]
    rfl

end Sys2Proof.Machine
end

section
/-! PROOFS. Verify, then decrypt (spec 45_aead.md R206): which steps write DBUF, leave the counter
zero and write ACC. -/

namespace Sys2Proof.Machine

/-- What a step of the core does to ACC: outside the MAC phases it keeps it or clears it (R176 to R178, R196 to R198,
R214). -/
theorem PhaseEffect.acc_cases {s t : State} (h : PhaseEffect s t) :
    s.inPhase macPhases ∨ t.scr.acc = s.scr.acc ∨ t.scr.acc = 0 := by
  cases h
  case macAadLast h _ _ _ _ _ _ | macAadMore h _ _ _ _ _ | macDataLast h _ _ _ | macDataMore h _ _ _ _ _ |
      macLen h _ _ _ _ =>
    exact .inl (by simp [h, macPhases])
  case macInit | macFinal | wipe => exact .inr (.inr rfl)
  case hcRound | blkRound =>
    rw [roundPhase_record]
    exact .inr (.inl rfl)
  case xor =>
    rw [xorNext_record]
    exact .inr (.inl rfl)
  all_goals exact .inr (.inl rfl)

section
variable {s t : State} (h : PhaseEffect s t) (hs : s.Inv)
include h hs

/-- In DECRYPT the data is written only when it is erased or behind equal tags (R201, R206). -/
theorem PhaseEffect.dbuf_decrypt (ho : s.opc = opcDecrypt) (hne : t.dbuf ≠ s.dbuf) :
    s.phase = Phase.failErase ∨ s.phase = Phase.xor ∧ s.scr.ctag = s.tag := by
  obtain ⟨-, hxor, -⟩ := hs.position
  cases h.writes with
  | xor hp => exact .inr ⟨hp, hs.authentic ho (hxor hp)⟩
  | erase hp => exact .inl hp
  | scratch | status | tag | wipe => exact absurd rfl hne

/-- In DECRYPT a data block becomes current only at TAG_CMP on equal tags (R200, R206). -/
theorem PhaseEffect.ctr_decrypt (ho : s.opc = opcDecrypt) (h0 : s.scr.ctr = 0) (hne : t.scr.ctr ≠ 0) :
    s.phase = Phase.tagCmp ∧ s.scr.ctag = s.tag := by
  obtain ⟨-, hxor, -⟩ := hs.position
  have henc : s.opc ≠ opcEncrypt := by rw [ho]; decide
  cases h.counter hs with
  | kept _ _ _ _ hc => exact absurd (hc.trans h0) hne
  | first _ _ _ _ hz => exact absurd (hz (.inl henc)) hne
  | more hp | finished hp => exact absurd h0 (hxor hp)
  | last _ _ he => exact absurd he henc
  | verified hp _ he => exact ⟨hp, he⟩
  | erased _ hc => exact absurd hc hne

/-- In ENCRYPT the accumulator is written only once all data has been processed (R206). -/
theorem PhaseEffect.pos_of_acc_encrypt (ho : s.opc = opcEncrypt) (hne : t.scr.acc ≠ s.scr.acc) :
    s.scr.pos = s.dlen := by
  obtain ⟨-, -, htag, -, hkey⟩ := hs.position
  obtain ⟨-, hmac, -⟩ := hs.macStage.zero rfl
  have hin : s.phase ∈ macPhases := by
    by_contra hn
    obtain ⟨-, -, ha⟩ := hmac hn
    rcases h.acc_cases with hin | he | hz
    · exact hn hin
    · exact hne he
    · exact hne (hz.trans ha.symm)
  obtain ⟨htags, hkeys⟩ := (by decide : ∀ p ∈ macPhases, p ∈ tagPhases ∧ p ∈ blockPhases ++ tagPhases) _ hin
  exact (hkey hkeys (htag htags)).1 ho

end

/-- A step with no host move to come is that of the idle core, which changes nothing, or an effect of the phase. -/
theorem core_step_cases {s t : State} (hs : s.script = []) (h : step s = .next t) : t = s ∨ PhaseEffect s t := by
  rw [step_nil hs] at h
  rcases coreTurn_cases h with ⟨-, he⟩ | ⟨-, i, hd, hx⟩
  · exact .inl he
  · exact .inr (exec_phase_cases hd hx)

/-- Settles O53: the idle core changes nothing, and the busy core's effect is bound by the three lemmas above. -/
theorem verifyThenDecrypt : Obligations.VerifyThenDecrypt := by
  refine ⟨fun s t hs hn ho h => ?_, fun s t hs hn ho h hne => ?_⟩
  · rcases core_step_cases hn h with rfl | he
    · exact ⟨fun hne => absurd rfl hne, fun h0 hne => absurd h0 hne⟩
    · exact ⟨he.dbuf_decrypt hs ho, he.ctr_decrypt hs ho⟩
  · rcases core_step_cases hn h with rfl | he
    · exact absurd rfl hne
    · exact he.pos_of_acc_encrypt hs ho hne

end Sys2Proof.Machine
end

section
/-! PROOFS. The commands from their start (spec 45_aead.md R190, R192, R193, R203), and the round trip (R204). -/

namespace Sys2Proof.Machine

/-- The state START leaves (R190). -/
def State.begun (s : State) (opc : Byte) : State :=
  { s with
    opc := opc, status := { busy := true, done := false, err := 0, errInfo := 0 }, phase := Phase.check }

/-- The end of DECRYPT when the tag is the computed one (R193). -/
theorem decryptEnd_of_equal {s : State} (h : s.tag = authTag s.key s.xnonce s.aadBytes s.dataBytes) :
    decryptEnd s = { endOfCommand 0 0 s with
      dbuf := s.dbuf.writeBytes 0 (xchacha20Xor s.key s.xnonce s.dataBytes) } := by
  rw [decryptEnd, if_pos ((tagDiff_eq_zero_iff _ _).2 h.symm)]

section
variable {s : State} (h : s.Ready) (hs : s.script = [])
include h hs

/-- The host's start, whatever the ignored bits of the word (R82, R190). -/
theorem State.Ready.step_start (r : BitVec 24) (opc : Byte) :
    step { s with script := [.wr 0x00 (r ++ opc)] } = .next (s.begun opc) := by
  obtain ⟨hp, -, -⟩ := h.idle_erased
  have hstart := step_wr_cmd hp (r ++ opc) []
  rw [startCommand_idle _ (s := { s with script := [] }) h.idle, cmdOpc_append] at hstart
  rw [hstart, State.begun, hs]

/-- A command begun in a ready state with a legal descriptor is started (R191). -/
theorem State.Ready.started (hl : s.operandsLegal) {opc : Byte} (ho : opc = opcEncrypt ∨ opc = opcDecrypt) :
    (s.begun opc).Started where
  acts := ⟨rfl, .inl hs⟩
  phase := rfl
  status := rfl
  erased := h.idle_erased.2.2
  dbuf := h.buffers_wf.2
  legal := by
    obtain ⟨hz, hlen⟩ := hl
    exact (contractFailure_none_iff _).2
      ⟨ho, congrArg Sizes.klen hz, congrArg Sizes.nlen hz, congrArg Sizes.tlen hz, hlen⟩

/-- ENCRYPT from its start, of a legal descriptor (R192, R203). -/
theorem State.Ready.runSteps_encrypt (hl : s.operandsLegal) (r : BitVec 24) :
    runSteps (1 + commandSteps s) { s with script := [.wr 0x00 (r ++ opcEncrypt)] } =
      .next (encryptEnd (s.begun opcEncrypt)) := by
  rw [Nat.add_comm]
  exact (runSteps_succ (h.step_start hs r opcEncrypt) _).trans ((h.started hs hl (.inl rfl)).runSteps_encrypt rfl)

/-- DECRYPT from its start, of a legal descriptor with the computed tag (R193, R203). -/
theorem State.Ready.runSteps_decrypt (hl : s.operandsLegal) (r : BitVec 24)
    (ht : s.tag = authTag s.key s.xnonce s.aadBytes s.dataBytes) :
    runSteps (1 + commandSteps s) { s with script := [.wr 0x00 (r ++ opcDecrypt)] } =
      .next { endOfCommand 0 0 (s.begun opcDecrypt) with
        dbuf := s.dbuf.writeBytes 0 (xchacha20Xor s.key s.xnonce s.dataBytes) } := by
  have hrun := (h.started hs hl (.inr rfl)).runSteps_decrypt rfl ht
  rw [decryptEnd_of_equal (s := s.begun opcDecrypt) ht] at hrun
  rw [Nat.add_comm]
  exact (runSteps_succ (h.step_start hs r opcDecrypt) _).trans hrun

end

/-- Settles O56: the run of ENCRYPT from its start, in a state whose scratch is erased before and after. -/
theorem encryptRun : Obligations.EncryptRun := by
  intro s r hr hl hs
  obtain ⟨-, -, hz⟩ := hr.idle_erased
  have hrun := hr.runSteps_encrypt hs hl r
  rw [encryptEnd, endOfCommand, ← hz] at hrun
  exact hrun

/-- Settles O57: the run of DECRYPT from its start, in a state whose scratch is erased before and after. -/
theorem decryptRun : Obligations.DecryptRun := by
  intro s r hr hl hs ht
  obtain ⟨-, -, hz⟩ := hr.idle_erased
  have hrun := hr.runSteps_decrypt hs hl r ht
  rw [endOfCommand, ← hz] at hrun
  exact hrun

/-- XORing twice with a keystream that covers the data gives the data back. -/
theorem xorBytes_xorBytes {d ks : List Byte} (h : d.length ≤ ks.length) : xorBytes (xorBytes d ks) ks = d := by
  refine List.ext_getElem ?_ fun i h1 h2 => ?_
  · rw [length_xorBytes, length_xorBytes]
    omega
  · simp only [xorBytes, List.getElem_zipWith, BitVec.xor_assoc, BitVec.xor_self, BitVec.xor_zero]

/-- XChaCha20Xor undoes itself: equal lengths have equal keystreams (R152). -/
theorem xchacha20Xor_xchacha20Xor (key : Vector Byte 32) (xn : Vector Byte 24) (data : List Byte) :
    xchacha20Xor key xn (xchacha20Xor key xn data) = data := by
  rw [xchacha20Xor, length_xchacha20Xor]
  refine xorBytes_xorBytes ?_
  rw [length_keystream]
  exact le_chunkCount _

/-- Writing the bytes that are there changes nothing. -/
theorem Memory.writeBytes_readBytes {m : Memory} (h : m.wf) (off n : Nat) :
    m.writeBytes off (m.readBytes off n) = m := by
  refine Memory.ext_read (Memory.writeBytes_wf _ h off) h fun a => ?_
  by_cases hin : off ≤ a ∧ a < off + n
  · obtain ⟨t, rfl⟩ := Nat.exists_eq_add_of_le hin.1
    rw [Memory.read_writeBytes_inside _ h off (by rw [Memory.length_readBytes]; omega), Memory.getElem_readBytes]
  · rw [Memory.read_writeBytes_outside _ _ (by rw [Memory.length_readBytes]; omega)]

/-- The invariant holds along every run. -/
theorem State.Inv.runSteps {s t : State} (h : s.Inv) {k : Nat} (hrun : runSteps k s = .next t) : t.Inv := by
  induction k generalizing s with
  | zero =>
    cases hrun
    exact h
  | succ k ih =>
    cases hs : step s with
    | next u =>
      rw [runSteps_succ hs] at hrun
      exact ih (invariantKept s u h hs) hrun
    | fault f => simp [Machine.runSteps, Host.Core.run, core, hs] at hrun
    | refused r => simp [Machine.runSteps, Host.Core.run, core, hs] at hrun

/-- The state ENCRYPT leaves with KEY written again by the host, as the round trip wants it (R192, R204). -/
def State.rekeyed (s : State) : State := { encryptEnd (s.begun opcEncrypt) with key := s.key }

section
variable {s : State} (hr : s.Ready) (hl : s.operandsLegal) (hs : s.script = [])
include hr

/-- The data after ENCRYPT is the ciphertext (R192). -/
theorem dataBytes_rekeyed : s.rekeyed.dataBytes = xchacha20Xor s.key s.xnonce s.dataBytes :=
  dataBytes_writeBytes hr.buffers_wf.2 ((length_xchacha20Xor _ _ _).trans (length_dataBytes s))

/-- The tag ENCRYPT leaves is that of the data it leaves (R192). -/
theorem tag_rekeyed : s.rekeyed.tag =
    authTag s.rekeyed.key s.rekeyed.xnonce s.rekeyed.aadBytes s.rekeyed.dataBytes := by
  rw [dataBytes_rekeyed hr]
  rfl

/-- Decrypting what ENCRYPT left restores the data buffer (R152, R204). -/
theorem writeBytes_rekeyed :
    s.rekeyed.dbuf.writeBytes 0 (xchacha20Xor s.rekeyed.key s.rekeyed.xnonce s.rekeyed.dataBytes) = s.dbuf := by
  have hwf := hr.buffers_wf.2
  have hdata : xchacha20Xor s.rekeyed.key s.rekeyed.xnonce s.rekeyed.dataBytes = s.dataBytes := by
    rw [dataBytes_rekeyed hr]
    exact xchacha20Xor_xchacha20Xor s.key s.xnonce s.dataBytes
  calc s.rekeyed.dbuf.writeBytes 0 (xchacha20Xor s.rekeyed.key s.rekeyed.xnonce s.rekeyed.dataBytes)
      _ = (s.dbuf.writeBytes 0 (xchacha20Xor s.key s.xnonce s.dataBytes)).writeBytes 0 s.dataBytes := by
        rw [hdata]
        rfl
      _ = s.dbuf.writeBytes 0 s.dataBytes := Memory.writeBytes_overwrite hwf 0 (by simp)
      _ = s.dbuf := Memory.writeBytes_readBytes hwf 0 _

include hl hs

/-- After ENCRYPT and the writes of KEY the host may start again (R262). -/
theorem ready_rekeyed : s.rekeyed.Ready := by
  have hinv := (hr.inv.with_host [.wr 0x00 (0 ++ opcEncrypt)] s.hostData).runSteps (hr.runSteps_encrypt hs hl 0)
  exact ⟨hinv.of_idle rfl hinv.buffers rfl rfl rfl, rfl⟩

end

/-- Settles O59: ENCRYPT, the writes of KEY, and DECRYPT from the state they leave, whose tag is that of its data. -/
theorem roundTrip : Obligations.RoundTrip := by
  intro s r r' hr hl hs
  have hready := ready_rekeyed hr hl hs
  obtain ⟨hp, -, -⟩ := hready.idle_erased
  have hkey := runSteps_wrk (s := encryptEnd (s.begun opcEncrypt)) hp rfl [.wr 0x00 (r' ++ opcDecrypt)] s.key
  have hdec := (runSteps_trans hkey _).trans (hready.runSteps_decrypt hs hl r' (tag_rekeyed hr))
  have hcount : 8 + (1 + commandSteps s.rekeyed) = 9 + commandSteps s := by
    rw [← Nat.add_assoc]
    rfl
  rw [hcount, writeBytes_rekeyed hr] at hdec
  exact ⟨_, _, hr.runSteps_encrypt hs hl r, hdec, rfl, rfl⟩

end Sys2Proof.Machine
end

section
/-! PROOFS. AuthenticationFailed (spec 60_exceptions.md R233, 45_aead.md R193, R203): the run of a DECRYPT whose tag
differs, the entry from TAG_CMP step by step, and the one step that raises the error. -/

namespace Sys2Proof.Machine

/-- After n zeros are written from offset 0 on, the bytes below n are zero and the others as before (R67, R201). -/
theorem Memory.read_writeBytes_zeros {m : Memory} (h : m.wf) (n : Nat) :
    (∀ a, a < n → (m.writeBytes 0 (List.replicate n 0)).read a = 0) ∧
    (∀ a, n ≤ a → (m.writeBytes 0 (List.replicate n 0)).read a = m.read a) := by
  refine ⟨fun a ha => ?_, fun a ha => Memory.read_writeBytes_outside _ _ (.inr (by simpa using ha))⟩
  have hread := Memory.read_writeBytes_inside (List.replicate n 0) h 0 (t := a) (by simpa using ha)
  rwa [Nat.zero_add, List.getElem_replicate] at hread

/-- The end of DECRYPT when the tag differs from the computed one (R193, R233). -/
theorem decryptEnd_of_differ {s : State} (h : s.tag ≠ authTag s.key s.xnonce s.aadBytes s.dataBytes) :
    decryptEnd s = { endOfCommand errAuthentication 0 s with
      dbuf := s.dbuf.writeBytes 0 (List.replicate s.dlen.toNat 0) } := by
  rw [decryptEnd, if_neg fun hd => h ((tagDiff_eq_zero_iff _ _).1 hd).symm, length_dataBytes]

/-- DECRYPT from its start, of a legal descriptor with another tag (R193, R203, R233). -/
theorem State.Ready.runSteps_decrypt_failed {s : State} (h : s.Ready) (hs : s.script = []) (hl : s.operandsLegal)
    (r : BitVec 24) (ht : s.tag ≠ authTag s.key s.xnonce s.aadBytes s.dataBytes) :
    runSteps (1 + failedSteps s) { s with script := [.wr 0x00 (r ++ opcDecrypt)] } =
      .next { endOfCommand errAuthentication 0 (s.begun opcDecrypt) with
        dbuf := s.dbuf.writeBytes 0 (List.replicate s.dlen.toNat 0) } := by
  have hrun := (h.started hs hl (.inr rfl)).runSteps_decrypt_failed rfl ht
  rw [decryptEnd_of_differ (s := s.begun opcDecrypt) ht] at hrun
  rw [Nat.add_comm]
  exact (runSteps_succ (h.step_start hs r opcDecrypt) _).trans hrun

/-- The state TAG_CMP leaves when the tags differ (R200, R233). -/
def State.tagRejected (s : State) : State :=
  raiseAuthenticationFailed { s with scr := { s.scr with diff := tagDiff s.scr.ctag s.tag } }

/-- The state FAIL_ERASE leaves (R201). -/
def State.dataErased (s : State) : State :=
  { s with dbuf := s.dbuf.writeBytes 0 (List.replicate s.dlen.toNat 0), phase := Phase.wipe }

section
variable {s : State} (h : s.CoreActs)
include h

/-- The first step of the entry: TAG_CMP raises the error (R200, R233). -/
theorem State.CoreActs.step_tagCmp_differ (hp : s.phase = Phase.tagCmp) (hne : s.scr.ctag ≠ s.tag) :
    step s = .next s.tagRejected :=
  (h.step_of_code (i := .tagCmp) hp rfl).trans (exec_tagCmp_differ hne)

/-- The second step of the entry: FAIL_ERASE, where the data exists (R201, R233). -/
theorem State.CoreActs.step_failErase (hp : s.phase = Phase.failErase) (hcap : s.dlen.toNat ≤ s.params.dbufCap) :
    step s = .next s.dataErased :=
  (h.step_of_code (i := .failErase) hp rfl).trans (execFailErase_eq hcap)

end

/-- TAG_CMP runs in a busy core, and no ERRINFO is recorded before it (R28, R234). -/
theorem State.Inv.status_of_tagCmp {s : State} (h : s.Inv) (hp : s.phase = Phase.tagCmp) :
    s.status.busy = true ∧ s.status.errInfo = 0 := by
  obtain ⟨-, hbusy⟩ := h.phaseCode
  obtain ⟨-, hinfo, -, -, hcontract, -⟩ := h.statusWord
  have hb : s.status.busy = true := hbusy.2 (by rw [hp]; decide)
  exact ⟨hb, hinfo fun hc => absurd (hp.symm.trans (hcontract hb hc)) (by decide)⟩

/-- No host move raises AuthenticationFailed: START and the reset input clear ERR, and no other move writes it (R44,
R190, R260). -/
theorem MoveEffect.err_authentication {m : HostMove} {s t : State} (h : MoveEffect m s t)
    (ht : t.status.err = errAuthentication) : s.status.err = errAuthentication := by
  cases h with
  | start v =>
    cases hb : s.status.busy with
    | true => rwa [startCommand_busy v hb] at ht
    | false =>
      rw [startCommand_idle v hb] at ht
      exact absurd ht (by decide : (0 : BitVec 2) ≠ errAuthentication)
  | write off v r _ _ hr => rwa [regWrite_status hr v s] at ht
  | bufWrite sp => cases sp <;> exact ht
  | read | bufRead | waited => exact ht
  | reset => exact absurd ht (by decide : State.reset.status.err ≠ errAuthentication)

/-- Of the core's steps only TAG_CMP raises AuthenticationFailed (R191, R200, R233). -/
theorem PhaseEffect.err_authentication {s t : State} (h : PhaseEffect s t) (ht : t.status.err = errAuthentication) :
    s.status.err = errAuthentication ∨ s.phase = Phase.tagCmp := by
  rcases h.status_cases with ⟨-, he⟩ | ⟨-, i, -, he⟩ | ⟨hp, -⟩ | ⟨-, he⟩
  · exact .inl (by rwa [he] at ht)
  · rw [he] at ht
    exact absurd ht (by decide : errContract ≠ errAuthentication)
  · exact .inr hp
  · exact .inl (by rwa [he] at ht)

/-- Whoever acts, ERR becomes AuthenticationFailed in TAG_CMP only (R233). -/
theorem tagCmp_of_err_authentication {s t : State} (h : step s = .next t) (ht : t.status.err = errAuthentication)
    (hs : s.status.err ≠ errAuthentication) : s.phase = Phase.tagCmp := by
  rcases step_cases h with ⟨u, hu, hturn⟩ | ⟨m, rest, -, hm⟩
  · obtain ⟨hst, hp⟩ : u.status = s.status ∧ u.phase = s.phase := by
      rcases hu with ⟨rfl, -⟩ | ⟨rest, -, rfl⟩ <;> exact ⟨rfl, rfl⟩
    rw [← hst] at hs
    rcases hturn with ⟨-, rfl⟩ | ⟨-, i, hd, hx⟩
    · exact absurd ht hs
    · exact hp.symm.trans (((exec_phase_cases hd hx).err_authentication ht).resolve_left hs)
  · exact absurd (hm.err_authentication ht) hs

/-- Settles O58: the run of a DECRYPT whose tag differs, the three steps from TAG_CMP as their instructions, and the
source of the error by `tagCmp_of_err_authentication`. -/
theorem authenticationFailure : Obligations.AuthenticationFailure := by
  refine ⟨fun s r hr hl hs ht => ?_, fun s hi hs hp hne => ?_, fun s t hi h ht hne => ?_⟩
  · obtain ⟨-, -, hz⟩ := hr.idle_erased
    obtain ⟨herased, hkept⟩ := Memory.read_writeBytes_zeros hr.buffers_wf.2 s.dlen.toNat
    have hrun := hr.runSteps_decrypt_failed hs hl r ht
    rw [endOfCommand, ← hz] at hrun
    exact ⟨_, hrun, herased, hkept, rfl⟩
  · obtain ⟨hb, hinfo⟩ := hi.status_of_tagCmp hp
    obtain ⟨-, hcap⟩ := hi.descriptor.lengths_le (by rw [State.inPhase, hp]; decide)
    obtain ⟨-, hwf, -, -⟩ := hi.buffers
    have acts : s.CoreActs := ⟨hb, .inl hs⟩
    have hcmp := acts.step_tagCmp_differ hp hne
    have herase := State.CoreActs.step_failErase (s := s.tagRejected) acts rfl hcap
    have hwipe := State.CoreActs.step_wipe (s := s.tagRejected.dataErased) acts rfl
    exact ⟨_, _, _, hcmp, rfl, rfl, rfl, herase, (Memory.read_writeBytes_zeros hwf _).1, rfl, hwipe, rfl, rfl,
      by rw [← hinfo]; rfl⟩
  · obtain ⟨-, -, hdecrypt⟩ := hi.descriptor
    have hp := tagCmp_of_err_authentication h ht hne
    exact ⟨hp, hdecrypt (by simp [State.inPhase, hp])⟩

end Sys2Proof.Machine
end

section
/-! PROOFS. The sequence of phases hides the secrets (spec 70_reset_and_hazards.md R276, 45_aead.md R203): each unit
operation runs alike on any two states alike in control. -/

namespace Sys2Proof.Machine

/-- u with the control of s: what the transition table tests is that of s (R195), all else that of u. -/
def State.withControl (u s : State) : State :=
  { u with
    opc := s.opc
    status := s.status
    sizes := s.sizes
    alen := s.alen
    dlen := s.dlen
    params := s.params
    script := s.script
    phase := s.phase
    scr := { u.scr with rnd := s.scr.rnd, ctr := s.scr.ctr, pos := s.scr.pos, mpos := s.scr.mpos } }

/-- A state alike in control with s is what taking over the control of s leaves of it. -/
theorem State.SameControl.withControl_eq {s s' : State} (h : s.SameControl s') : s'.withControl s = s' := by
  obtain ⟨ho, hst, hz, ha, hd, hpar, hs, hp, hr, hc, hpos, hm⟩ := h
  rw [State.withControl, ← ho, ← hst, ← hz, ← ha, ← hd, ← hpar, ← hs, ← hp, ← hr, ← hc, ← hpos, ← hm]

/-- An XOR step that answers a next state had its chunk (R66, R155). -/
theorem xorChunk_le_of_execXor {s t : State} (h : execXor s = .next t) :
    s.scr.pos.toNat + xorLen s ≤ s.params.dbufCap := by
  by_contra hc
  simp [execXor, memRead, hc] at h

/-- A round phase tests RND only (R123, R142). -/
theorem roundPhase_sameControl (after : BitVec 5) (s u : State) :
    (roundPhase after s).SameControl (roundPhase after (u.withControl s)) := by
  rw [roundPhase_record, roundPhase_record]
  constructor <;> rfl

/-- A segment step tests MPOS and the segment's length only (R196, R197). -/
theorem macSegStep_sameControl (m m' : Memory) (len : BitVec 64) (after : BitVec 5) (s u : State) :
    (macSegStep m len after s).SameControl (macSegStep m' len after (u.withControl s)) := by
  by_cases hm : s.scr.mpos + BitVec.ofNat 64 (chunkLen blockSize len.toNat s.scr.mpos.toNat) = len
  · rw [macSegStep, macSegStep, if_pos hm, if_pos (by exact hm)]
    constructor <;> rfl
  · rw [macSegStep, macSegStep, if_neg hm, if_neg (by exact hm)]
    constructor <;> rfl

/-- XOR's transfer tests OPC, DLEN and POS only (R155). -/
theorem xorNext_sameControl (s u : State) :
    (xorNext (xorBody s)).SameControl (xorNext (xorBody (u.withControl s))) := by
  rw [xorNext_record, xorNext_record]
  constructor <;> rfl

section
variable {s t : State} (u : State)

/-- CHECK tests the descriptor only (R191). -/
theorem execCheck_sameControl (h : execCheck s = .next t) :
    ∃ t', execCheck (u.withControl s) = .next t' ∧ t.SameControl t' := by
  have hsame : contractFailure (u.withControl s) = contractFailure s := rfl
  rw [execCheck] at h ⊢
  rw [hsame]
  cases hc : contractFailure s with
  | none =>
    rw [hc] at h
    cases h
    exact ⟨_, rfl, by constructor <;> rfl⟩
  | some i =>
    rw [hc] at h
    cases h
    exact ⟨_, rfl, by constructor <;> rfl⟩

/-- TAG_CMP tests DLEN and whether the tags are equal (R200). -/
theorem execTagCmp_sameControl (htag : s.scr.ctag = s.tag ↔ u.scr.ctag = u.tag) (h : exec .tagCmp s = .next t) :
    ∃ t', exec .tagCmp (u.withControl s) = .next t' ∧ t.SameControl t' := by
  by_cases he : s.scr.ctag = s.tag
  · rw [exec_tagCmp_equal he] at h
    cases h
    exact ⟨_, exec_tagCmp_equal (s := u.withControl s) (htag.1 he), by constructor <;> rfl⟩
  · rw [exec_tagCmp_differ he] at h
    cases h
    exact ⟨_, exec_tagCmp_differ (s := u.withControl s) fun hu => he (htag.2 hu), by constructor <;> rfl⟩

/-- A unit operation runs alike on two states alike in control and, in TAG_CMP, in whether the tags are equal (R276). -/
theorem exec_phase_sameControl {i : Instr} (hd : decodePhase s.phase = .ok i)
    (htag : s.phase = Phase.tagCmp → (s.scr.ctag = s.tag ↔ u.scr.ctag = u.tag)) (h : exec i s = .next t) :
    ∃ t', exec i (u.withControl s) = .next t' ∧ t.SameControl t' := by
  cases i
  case check => exact execCheck_sameControl u h
  case hcRound | blkRound =>
    cases h
    exact ⟨_, rfl, roundPhase_sameControl _ s u⟩
  case xor =>
    rw [execXor_next h]
    exact ⟨_, execXor_eq (s := u.withControl s) (xorChunk_le_of_execXor (s := s) h), xorNext_sameControl s u⟩
  case macAad =>
    rw [eq_of_exec_macAad h]
    exact ⟨_, exec_macAad_seg (s := u.withControl s) (execMacAad_next (s := s) h),
      macSegStep_sameControl _ _ _ _ s u⟩
  case macData =>
    rw [eq_of_exec_macData h]
    exact ⟨_, exec_macData_seg (s := u.withControl s) (execMacData_next (s := s) h),
      macSegStep_sameControl _ _ _ _ s u⟩
  case tagCmp => exact execTagCmp_sameControl u (htag (eq_of_decodePhase hd rfl)) h
  case failErase =>
    have hle := execFailErase_next h
    rw [exec, execFailErase_eq hle] at h
    cases h
    exact ⟨_, execFailErase_eq (s := u.withControl s) hle, by constructor <;> rfl⟩
  case idle | hcLoad | hcOut | blkLoad | blkOut | otk | macInit | macLen | macFinal | tagOut | wipe =>
    cases h
    exact ⟨_, rfl, by constructor <;> rfl⟩
  all_goals cases encode_of_decodePhase hd

end

/-- Settles O52: both states take the same turn, idle or the unit operation PHASE names (`exec_phase_sameControl`). -/
theorem phasesHideSecrets : Obligations.PhasesHideSecrets := by
  intro s s' t hsame hs htag h
  have hs' : s'.script = [] := hsame.script.trans hs
  rcases coreFetch_cases s with ⟨hb, hn, -⟩ | ⟨hb, i, hd, -⟩ | ⟨-, hf⟩
  · rw [step_idle hn hb hs] at h
    cases h
    exact ⟨s', step_idle (by rwa [State.PhaseNamed, hsame.phase]) (by rwa [hsame.status]) hs', hsame⟩
  · rw [step_of_phase hb hs hd] at h
    obtain ⟨t', hx, ht⟩ := exec_phase_sameControl s' hd htag h
    rw [hsame.withControl_eq] at hx
    exact ⟨t', (step_of_phase (by rwa [hsame.status]) hs' (by rwa [hsame.phase])).trans hx, ht⟩
  · rw [step_nil hs, hf] at h
    cases h

end Sys2Proof.Machine
end

section
/-! PROOFS. The state after reset (spec 10_state.md R45, 70_reset_and_hazards.md R260). -/

namespace Sys2Proof.Machine

/-- Settles O45: scratch is erased, the buffers list nothing, and PHASE and STATUS are zero. -/
theorem resetInvariant : Obligations.ResetInvariant :=
  .of_erased (by decide) (by decide) (by decide) (by decide) rfl

end Sys2Proof.Machine
end
